-- ==== Sys2Proof/Word.lean ====
section
/-!
DEFINITION. The two kinds of value of the block: an unsigned byte and a single bit
(spec/00_scope.md R6, R7, R8). No value of this hardware is signed or wider than a byte.
-/

namespace Sys2Proof

/-- An unsigned byte, bits 7 down to 0, bit 0 the least significant (R6, R7). -/
abbrev Byte := BitVec 8

/-- A single bit, 0 or 1 (R7): the rotate carry and every tested bit. -/
abbrev Bit := Bool

end Sys2Proof
end

