-- ==== Sys2Proof/Config.lean ====
section
/-!
DEFINITION. What is fixed for one machine and not stated by the spec: the contents of the four
substitution tables (spec/00_scope.md R5, spec/10_state.md R18, spec/92_eei_decisions.md D1).
-/

namespace Sys2Proof

/-- Four tables of 32 bytes: entry `i` of table `k` is `SBOX[k][i]` (R18). -/
abbrev Tables := Vector (Vector Byte 32) 4

/-- The 128 table bytes. They are in no source, so this is an open parameter about which nothing
can be proved: a constant with no body (R18, R141, D1; log entry 6). Safe. -/
opaque Config.sbox : Tables

end Sys2Proof
end

