-- ==== Sys2Proof/Syntax.lean ====
section
/-!
DEFINITION. The record format and the operations a record selects, as syntax
(spec/30_encoding.md R50, R51, R62): one constructor of `Instr` per row of spec/opcode_table.json.
-/

namespace Sys2Proof

/-- The four scrambled payload bytes `REC[2]` to `REC[5]` (R51). -/
structure Payload where
  p0 : Byte
  p1 : Byte
  p2 : Byte
  p3 : Byte
  deriving DecidableEq, Repr

/-- The checksum trailer `REC[6]` (high byte) and `REC[7]` (low byte) (R51, R36). -/
structure Trailer where
  ck0 : Byte
  ck1 : Byte
  deriving DecidableEq, Repr

/-- One record, exactly eight bytes: the block's one format and one length (R50, R51, R11). -/
structure Record where
  mode    : Byte
  key     : Byte
  payload : Payload
  trailer : Trailer
  deriving DecidableEq, Repr

/-- The ways a record selects an operation, one constructor per row of the selection table (R62).
A field of the row that the row's own pattern fixes is not an operand: `var7K0` has no key (it is
0), and a row selected by the mode byte has no mode. -/
inductive Instr where
  /-- `VAR7.K0`: key override by the zero key (R57, R103). -/
  | var7K0 (mode : Byte) (p : Payload) (ck : Trailer)
  /-- `VAR7.K5`: key override by bit 5 of the key (R57, R103). -/
  | var7K5 (mode key : Byte) (p : Payload) (ck : Trailer)
  /-- `SUBA`: mode 1, Substitution Cipher A (R102). -/
  | suba (key : Byte) (p : Payload) (ck : Trailer)
  /-- `RSV2`: reserved mode 2 (R105). -/
  | rsv2 (key : Byte) (p : Payload) (ck : Trailer)
  /-- `RSV3`: reserved mode 3 (R106). -/
  | rsv3 (key : Byte) (p : Payload) (ck : Trailer)
  /-- `RSV4`: reserved mode 4 (R107). -/
  | rsv4 (key : Byte) (p : Payload) (ck : Trailer)
  /-- `RSV5`: reserved mode 5 (R108). -/
  | rsv5 (key : Byte) (p : Payload) (ck : Trailer)
  /-- `RSV6`: reserved mode 6 (R109). -/
  | rsv6 (key : Byte) (p : Payload) (ck : Trailer)
  /-- `VAR7.M`: mode 7, Variant 7 (R103). -/
  | var7M (key : Byte) (p : Payload) (ck : Trailer)
  /-- `FIXED`: mode 255, the fixed output (R104). -/
  | fixed (key : Byte) (p : Payload) (ck : Trailer)
  /-- `INVM`: any other mode (R110). -/
  | invm (mode key : Byte) (p : Payload) (ck : Trailer)
  deriving DecidableEq, Repr

end Sys2Proof
end

