-- ==== Sys2Proof/Machine/State.lean ====
section
/-!
DEFINITION. The state of the block as plain data, the reasons a step can stop, and the state after
reset (spec/10_state.md R10 to R24, spec/70_reset_and_hazards.md R140).
-/

namespace Sys2Proof.Machine

/-- The output buffer `OUT[0]` to `OUT[3]`, owned by the host (R14). -/
structure Output where
  o0 : Byte
  o1 : Byte
  o2 : Byte
  o3 : Byte
  deriving DecidableEq, Repr

/-- The result of a transaction, one of five values (R15, R120). -/
inductive Status where
  | ok
  | invalidChecksum
  | invalidKey
  | invalidMode
  | unimplemented
  deriving DecidableEq, Repr

/-- The four failure kinds, the block's exceptions (R120). None carries information (D20). -/
inductive Failure where
  | invalidChecksum
  | invalidKey
  | invalidMode
  | unimplemented
  deriving DecidableEq, Repr

/-- The checksum engine's state: the four bytes `CS[0]` to `CS[3]` (R12), the carry `c` and the
byte `temp` (R16), and the counters `r` and `i` (R17). It is private to the engine (R13): the host
cannot read it and no transaction reads what an earlier one left in it. -/
structure Engine where
  cs0   : Byte
  cs1   : Byte
  cs2   : Byte
  cs3   : Byte
  carry : Bit
  temp  : Byte
  round : Nat
  iter  : Nat
  deriving DecidableEq, Repr

/-- The whole state (R10). -/
structure State where
  /-- `REC[0..7]`: the record the host has presented; the core never writes it (R11). -/
  record : Record
  /-- `OUT[0..3]`: the host's output buffer (R14). -/
  out    : Output
  /-- `STATUS`: the result of the last transaction (R15). -/
  status : Status
  /-- `CS`, `c`, `temp`, `r`, `i` (R12, R16, R17). -/
  engine : Engine
  /-- `SBOX[0..3][0..31]`: read-only tables (R18). -/
  sbox   : Tables
  deriving DecidableEq, Repr

/-- Reasons the machine stops with a fault. There is none: every failure of the spec ends its
transaction in a next state (R120, R126, R134: "The core as specified here has no outcome that
prevents the next transaction"), so no step raises one. Safe. -/
inductive Fault where
  deriving DecidableEq, Repr

/-- Reasons for which there is no next state. -/
inductive Refusal where
  /-- Raised by an arm of `exec` whose instruction has no meaning yet; no arm does. Safe. -/
  | notModelled (mnemonic : String)
  /-- Raised by `invoke` at the host boundary for an input of fewer than 8 bytes, to which the spec
  gives no meaning (R37, R91, D10, U6). No step raises it: a record in `State` has 8 bytes. Safe. -/
  | shortInput
  deriving DecidableEq, Repr

/-- The state after reset. The spec states a value for `SBOX` only: its fixed contents, an open
parameter (R23). Every other value here is a DESIGN CHOICE (R20, R21, R22, R24; log entries 1 to 5),
unsafe. -/
def State.reset : State where
  record := ⟨0, 0, ⟨0, 0, 0, 0⟩, ⟨0, 0⟩⟩
  out    := ⟨0, 0, 0, 0⟩
  status := .ok
  engine := ⟨0, 0, 0, 0, false, 0, 0, 0⟩
  sbox   := Config.sbox

end Sys2Proof.Machine
end

