-- ==== Sys2Proof/Machine/Flags.lean ====
section
/-!
DEFINITION. The block's only flag-like values (spec/10_state.md R16): the carry that the Bit Rotator
takes and gives (spec/40_checksum.md R70). There is no flags register and no condition code.
-/

namespace Sys2Proof.Machine

/-- `ROL1C` (R70): rotate a byte left by one bit through a carry. The result is the carry out (the
byte's bit 7) and the new byte (the carry in enters at bit 0). -/
def rol1c (cin : Bit) (b : Byte) : Bit × Byte :=
  (b.getLsbD 7, (b <<< 1) ||| (BitVec.ofBool cin).setWidth 8)

end Sys2Proof.Machine
end

