-- ==== Sys2Proof/Machine/Operands.lean ====
section
/-!
DEFINITION. The operand forms: single bytes and chunks of the record (spec/30_encoding.md R51, R54),
the sbox index and lookup (R55, spec/42_ciphers.md R101), the nibble-swapped and the complemented
payload byte (R100, R103).
-/

namespace Sys2Proof.Machine

/-- `REC[i]`, `i` in 0..7 (R51). -/
def recordByte (rc : Record) (i : Fin 8) : Byte :=
  match i with
  | 0 => rc.mode
  | 1 => rc.key
  | 2 => rc.payload.p0
  | 3 => rc.payload.p1
  | 4 => rc.payload.p2
  | 5 => rc.payload.p3
  | 6 => rc.trailer.ck0
  | 7 => rc.trailer.ck1

/-- The chunk of round `r`: `REC[2*r]` and `REC[2*r+1]` (R54). -/
def chunk (rc : Record) (r : Fin 3) : Byte × Byte :=
  (recordByte rc ⟨2 * r.val, by omega⟩, recordByte rc ⟨2 * r.val + 1, by omega⟩)

/-- `NSWAP` (R100): exchange the two nibbles of a byte. -/
def nswap (b : Byte) : Byte :=
  (b <<< 4) ||| (b >>> 4)

/-- `~b` (R7, R103): the complement of a byte. -/
def complement (b : Byte) : Byte :=
  b ^^^ 0xFF#8

/-- `SBOXRD` (R101): one lookup in table `k`. The whole key byte is the index, unmasked (R55); an
index of 32 or more is the failure `InvalidKey`, for every table alike. -/
def sboxRead (tables : Tables) (k : Fin 4) (key : Byte) : Except Failure Byte :=
  if h : key.toNat < 32 then .ok ((tables.get k).get ⟨key.toNat, h⟩)
  else .error .invalidKey

end Sys2Proof.Machine
end

