-- ==== Sys2Proof/Machine/Checksum.lean ====
section
/-!
DEFINITION. The checksum engine (spec/40_checksum.md R71 to R76): the mixer as the spec's own
sequence of steps over the engine's state, and the comparison with the record's trailer.
-/

namespace Sys2Proof.Machine

/-- `CKINIT` (R71): `CS <- [0xFF, 0xFF, 0x00, 0x00]`. -/
def ckInit (e : Engine) : Engine :=
  { e with cs0 := 0xFF#8, cs1 := 0xFF#8, cs2 := 0x00#8, cs3 := 0x00#8 }

/-- `CKLOAD(r)` (R72): the chunk of round `r` replaces `CS[2]` and `CS[3]`. -/
def ckLoad (rc : Record) (r : Fin 3) (e : Engine) : Engine :=
  { e with cs2 := (chunk rc r).1, cs3 := (chunk rc r).2 }

/-- Step a of `CKITER` (R73): copy the top byte before any rotate. -/
def ckStepA (e : Engine) : Engine :=
  { e with temp := e.cs0 }

/-- Step b of `CKITER` (R73): rotate `CS[1]`; the carry in is the constant 0. -/
def ckStepB (e : Engine) : Engine :=
  { e with carry := (rol1c false e.cs1).1, cs1 := (rol1c false e.cs1).2 }

/-- Step c of `CKITER` (R73): rotate `CS[0]` with the carry of step b. -/
def ckStepC (e : Engine) : Engine :=
  { e with carry := (rol1c e.carry e.cs0).1, cs0 := (rol1c e.carry e.cs0).2 }

/-- Step d of `CKITER` (R73): if bit 7 of the not yet rotated `CS[2]` is set, force bit 0 of the
already rotated `CS[1]` to 1. -/
def ckStepD (e : Engine) : Engine :=
  { e with cs1 := if e.cs2.getLsbD 7 then e.cs1 ||| 0x01#8 else e.cs1 }

/-- Step e of `CKITER` (R73): rotate `CS[3]` with the carry of step c. -/
def ckStepE (e : Engine) : Engine :=
  { e with carry := (rol1c e.carry e.cs3).1, cs3 := (rol1c e.carry e.cs3).2 }

/-- Step f of `CKITER` (R73): rotate `CS[2]` with the carry of step e. -/
def ckStepF (e : Engine) : Engine :=
  { e with carry := (rol1c e.carry e.cs2).1, cs2 := (rol1c e.carry e.cs2).2 }

/-- Step g of `CKITER` (R73): if bit 7 of the saved byte is set, apply the taps. -/
def ckStepG (e : Engine) : Engine :=
  { e with
    cs0 := if e.temp.getLsbD 7 then e.cs0 ^^^ 0x80#8 else e.cs0
    cs1 := if e.temp.getLsbD 7 then e.cs1 ^^^ 0x05#8 else e.cs1 }

/-- `CKITER` (R73): one inner iteration, the seven steps in their order (R79, R143). -/
def ckIter (e : Engine) : Engine :=
  ckStepG (ckStepF (ckStepE (ckStepD (ckStepC (ckStepB (ckStepA e))))))

/-- The counter `i` advances by 1 after an inner iteration (R17). -/
def countIter (e : Engine) : Engine :=
  { e with iter := e.iter + 1 }

/-- The counter `i` starts at 0 in every round (R17, R24). -/
def startIters (e : Engine) : Engine :=
  { e with iter := 0 }

/-- The counter `r` advances by 1 after a round (R17). -/
def countRound (e : Engine) : Engine :=
  { e with round := e.round + 1 }

/-- The counter `r` starts at 0 in every transaction (R17, R24). -/
def startRounds (e : Engine) : Engine :=
  { e with round := 0 }

/-- `n` inner iterations (R74). -/
def ckIters : Nat → Engine → Engine
  | 0, e => e
  | n + 1, e => ckIters n (countIter (ckIter e))

/-- `CKROUND(r)` (R74): load the chunk, then 16 inner iterations. -/
def ckRound (rc : Record) (r : Fin 3) (e : Engine) : Engine :=
  countRound (ckIters 16 (ckLoad rc r (startIters e)))

/-- `CKSUM` (R75): initialise, then rounds 0, 1 and 2. -/
def ckSum (rc : Record) (e : Engine) : Engine :=
  ckRound rc 2 (ckRound rc 1 (ckRound rc 0 (startRounds (ckInit e))))

/-- The verdict of `CKVERIFY` (R76): `CS[0]` equals `REC[6]` and `CS[1]` equals `REC[7]`. -/
def ckMatches (rc : Record) (e : Engine) : Bool :=
  e.cs0 == rc.trailer.ck0 && e.cs1 == rc.trailer.ck1

/-- The checksum `(c0, c1)` of a record's first six bytes (R75), computed by an engine of its own.
What the engine held before does not matter (R13, R20). -/
def checksumOf (rc : Record) : Trailer :=
  let e := ckSum rc ⟨0, 0, 0, 0, false, 0, 0, 0⟩
  ⟨e.cs0, e.cs1⟩

end Sys2Proof.Machine
end

