-- ==== Sys2Proof/Decode.lean ====
section
/-!
DEFINITION. From bytes to the operation a record selects (spec/30_encoding.md R50 to R62,
spec/41_dispatch.md R91 to R93), the encoder, and the selection table's patterns (R62).
-/

namespace Sys2Proof

open Machine (recordByte checksumOf)

/-- Why bytes select no operation. -/
inductive DecodeError where
  /-- Fewer than 8 bytes: never presented to the core (R37, R91, D10). -/
  | shortInput
  /-- The trailer is not the checksum of the other six bytes (R56, R60 a). -/
  | invalidChecksum
  deriving DecidableEq, Repr

/-- The first 8 bytes of an input, byte 0 first; bytes 8 and beyond have no effect (R34, R37, R91). -/
def recordOfBytes : List Byte → Except DecodeError Record
  | b0 :: b1 :: b2 :: b3 :: b4 :: b5 :: b6 :: b7 :: _ =>
    .ok ⟨b0, b1, ⟨b2, b3, b4, b5⟩, ⟨b6, b7⟩⟩
  | _ => .error .shortInput

/-- A record's eight bytes in index order (R34, R51). -/
def bytesOfRecord (rc : Record) : List Byte :=
  [rc.mode, rc.key, rc.payload.p0, rc.payload.p1, rc.payload.p2, rc.payload.p3,
    rc.trailer.ck0, rc.trailer.ck1]

/-- The record as the table's 64-bit number: `W[63:56] = REC[0]` down to `W[7:0] = REC[7]` (R52). -/
def wordOfRecord (rc : Record) : BitVec 64 :=
  rc.mode ++ rc.key ++ rc.payload.p0 ++ rc.payload.p1 ++ rc.payload.p2 ++ rc.payload.p3
    ++ rc.trailer.ck0 ++ rc.trailer.ck1

/-- The record whose table number is `w` (R52). -/
def recordOfWord (w : BitVec 64) : Record :=
  ⟨w.extractLsb' 56 8, w.extractLsb' 48 8,
    ⟨w.extractLsb' 40 8, w.extractLsb' 32 8, w.extractLsb' 24 8, w.extractLsb' 16 8⟩,
    ⟨w.extractLsb' 8 8, w.extractLsb' 0 8⟩⟩

/-- `KEYOVERRIDE` (R57, R92): the key is 0 or has bit 5 set. The source marks the test provisional
(R95, U2; log entry 11), and this is its one definition. -/
def keyOverride (key : Byte) : Bool :=
  key == 0x00#8 || key.getLsbD 5

/-- `MODEDISPATCH` (R58, R93): the selection on the whole mode byte. -/
def modeDispatch (rc : Record) : Instr :=
  if rc.mode = 0x01#8 then .suba rc.key rc.payload rc.trailer
  else if rc.mode = 0x02#8 then .rsv2 rc.key rc.payload rc.trailer
  else if rc.mode = 0x03#8 then .rsv3 rc.key rc.payload rc.trailer
  else if rc.mode = 0x04#8 then .rsv4 rc.key rc.payload rc.trailer
  else if rc.mode = 0x05#8 then .rsv5 rc.key rc.payload rc.trailer
  else if rc.mode = 0x06#8 then .rsv6 rc.key rc.payload rc.trailer
  else if rc.mode = 0x07#8 then .var7M rc.key rc.payload rc.trailer
  else if rc.mode = 0xFF#8 then .fixed rc.key rc.payload rc.trailer
  else .invm rc.mode rc.key rc.payload rc.trailer

/-- The two ways the key overrides the mode, told apart as the table's two rows do (R57, R62). -/
def keyDispatch (rc : Record) : Instr :=
  if rc.key = 0x00#8 then .var7K0 rc.mode rc.payload rc.trailer
  else .var7K5 rc.mode rc.key rc.payload rc.trailer

/-- The operation a record with a valid trailer selects: the key first, then the mode (R90 steps 2
and 3, R62 priorities 1, 2, 3). Every record selects exactly one (R60). -/
def select (rc : Record) : Instr :=
  if keyOverride rc.key then keyDispatch rc else modeDispatch rc

/-- The decoder of a record (R62: the trailer, then the rows by priority). -/
def decode (rc : Record) : Except DecodeError Instr :=
  if checksumOf rc = rc.trailer then .ok (select rc) else .error .invalidChecksum

/-- The decoder of an input of any length (R91). -/
def decodeBytes (input : List Byte) : Except DecodeError Instr :=
  match recordOfBytes input with
  | .ok rc => decode rc
  | .error e => .error e

/-- The record of an operation: the row's fixed bytes and its operands, in the places of R51. -/
def encode : Instr → Record
  | .var7K0 mode p ck     => ⟨mode, 0x00#8, p, ck⟩
  | .var7K5 mode key p ck => ⟨mode, key, p, ck⟩
  | .suba key p ck        => ⟨0x01#8, key, p, ck⟩
  | .rsv2 key p ck        => ⟨0x02#8, key, p, ck⟩
  | .rsv3 key p ck        => ⟨0x03#8, key, p, ck⟩
  | .rsv4 key p ck        => ⟨0x04#8, key, p, ck⟩
  | .rsv5 key p ck        => ⟨0x05#8, key, p, ck⟩
  | .rsv6 key p ck        => ⟨0x06#8, key, p, ck⟩
  | .var7M key p ck       => ⟨0x07#8, key, p, ck⟩
  | .fixed key p ck       => ⟨0xFF#8, key, p, ck⟩
  | .invm mode key p ck   => ⟨mode, key, p, ck⟩

/-- The bytes of an operation's record, in index order. -/
def encodeBytes (i : Instr) : List Byte :=
  bytesOfRecord (encode i)

/-- The `mask` column of the selection table, by row (R62). -/
def rowMask : Instr → BitVec 64
  | .var7K0 _ _ _   => 0x00FF000000000000#64
  | .var7K5 _ _ _ _ => 0x0020000000000000#64
  | .suba _ _ _     => 0xFF00000000000000#64
  | .rsv2 _ _ _     => 0xFF00000000000000#64
  | .rsv3 _ _ _     => 0xFF00000000000000#64
  | .rsv4 _ _ _     => 0xFF00000000000000#64
  | .rsv5 _ _ _     => 0xFF00000000000000#64
  | .rsv6 _ _ _     => 0xFF00000000000000#64
  | .var7M _ _ _    => 0xFF00000000000000#64
  | .fixed _ _ _    => 0xFF00000000000000#64
  | .invm _ _ _ _   => 0x0000000000000000#64

/-- The `match` column of the selection table, by row (R62). -/
def rowMatch : Instr → BitVec 64
  | .var7K0 _ _ _   => 0x0000000000000000#64
  | .var7K5 _ _ _ _ => 0x0020000000000000#64
  | .suba _ _ _     => 0x0100000000000000#64
  | .rsv2 _ _ _     => 0x0200000000000000#64
  | .rsv3 _ _ _     => 0x0300000000000000#64
  | .rsv4 _ _ _     => 0x0400000000000000#64
  | .rsv5 _ _ _     => 0x0500000000000000#64
  | .rsv6 _ _ _     => 0x0600000000000000#64
  | .var7M _ _ _    => 0x0700000000000000#64
  | .fixed _ _ _    => 0xFF00000000000000#64
  | .invm _ _ _ _   => 0x0000000000000000#64

/-- What the decoder reads from the record whose table number is the low `nbits` bits of `w`, the
bits above them 0. The table numbers a record as one 64-bit number with `REC[0]` at its top (R52),
and the bytes are laid out with that byte first (log entry 12). -/
def decodeTableWord (nbits w : Nat) : Option Instr :=
  match decodeBytes (bytesOfRecord (recordOfWord (BitVec.ofNat 64 (w % 2 ^ nbits)))) with
  | .ok i => some i
  | .error _ => none

end Sys2Proof
end

