-- ==== Sys2Proof/Machine/Ops.lean ====
section
/-!
DEFINITION. The shared operations: the memory primitives of spec/00_scope.md R7 over the storage
spaces of spec/20_memory.md R30, ending a transaction with success or with a failure
(spec/60_exceptions.md R126), fetching the record, and the two ciphers other than the constant
(spec/42_ciphers.md R102, R103).
-/

namespace Sys2Proof.Machine

/-- A byte of one of the byte arrays of R30. Every index is in range by its type (R40). -/
inductive Loc where
  | record (i : Fin 8)
  | out (i : Fin 4)
  | sbox (k : Fin 4) (i : Fin 32)
  deriving DecidableEq, Repr

/-- `OUT[i]`. -/
def outputByte (o : Output) (i : Fin 4) : Byte :=
  match i with
  | 0 => o.o0
  | 1 => o.o1
  | 2 => o.o2
  | 3 => o.o3

/-- `MemRead(space, idx, 1)` (R7). A read has no side effect (R39). The core reads `REC` and `SBOX`
only (R30); `OUT` is there for the host, and for statements about what is unchanged. -/
def memRead (s : State) : Loc → Byte
  | .record i => recordByte s.record i
  | .out i    => outputByte s.out i
  | .sbox k i => (s.sbox.get k).get i

/-- `CS[i]`, `i` in 0..3, of the checksum state (R12). -/
def csByte (e : Engine) (i : Fin 4) : Byte :=
  match i with
  | 0 => e.cs0
  | 1 => e.cs1
  | 2 => e.cs2
  | 3 => e.cs3

/-- `OUT[i] <- v` (R7): the only space the core writes is `OUT`, one byte at a time (R30, R38). -/
def writeOut (i : Fin 4) (v : Byte) (s : State) : State :=
  match i with
  | 0 => { s with out := { s.out with o0 := v } }
  | 1 => { s with out := { s.out with o1 := v } }
  | 2 => { s with out := { s.out with o2 := v } }
  | 3 => { s with out := { s.out with o3 := v } }

/-- `return Ok` (R7, R90 step 4): the four writes of `OUT`, in order, and the status. -/
def succeed (o : Output) (s : State) : State :=
  { writeOut 3 o.o3 (writeOut 2 o.o2 (writeOut 1 o.o1 (writeOut 0 o.o0 s))) with status := .ok }

/-- The status a failure is reported as (R120). -/
def failureStatus : Failure → Status
  | .invalidChecksum => .invalidChecksum
  | .invalidKey      => .invalidKey
  | .invalidMode     => .invalidMode
  | .unimplemented   => .unimplemented

/-- `raise <Failure>`, taking an exception (R126): the transaction stops, `STATUS` is the failure,
`OUT` keeps the value it had, nothing is saved anywhere, no mode changes and no control goes to a
handler. There is no return from it and nothing to restore (R127). For `InvalidKey` that `OUT` is
kept is the spec's own decision (D7; log entry 9), unsafe. -/
def raiseFailure (f : Failure) (s : State) : State :=
  { s with status := failureStatus f }

/-- The numeric code of an outcome (R15, R120): this spec's own numbering, on which no rule rests. -/
def statusCode : Status → Nat
  | .ok              => 0
  | .invalidChecksum => 1
  | .invalidKey      => 2
  | .invalidMode     => 3
  | .unimplemented   => 4

/-- The record of the transaction, the only thing the block fetches (R43). -/
def fetchRecord (s : State) : Record :=
  s.record

/-- The checksum engine's part of a transaction: `CKSUM` over the record (R75, R90 step 1). -/
def runChecksum (s : State) : State :=
  { s with engine := ckSum (fetchRecord s) s.engine }

/-- The one-bit verdict that leaves the checksum engine (R13, R76). -/
def trailerMatches (s : State) : Bool :=
  ckMatches (fetchRecord s) s.engine

/-- What Substitution Cipher A writes (R102): table 0, 2, 3, 1 for position 0, 1, 2, 3, one index
for all four lookups; a lookup that fails fails the whole before any write (R102 corner case 1). -/
def subaOutput (tables : Tables) (key : Byte) (p : Payload) : Except Failure Output :=
  match sboxRead tables 0 key, sboxRead tables 2 key, sboxRead tables 3 key,
      sboxRead tables 1 key with
  | .ok t0, .ok t2, .ok t3, .ok t1 =>
    .ok ⟨nswap p.p0 ^^^ t0, nswap p.p1 ^^^ t2, nswap p.p2 ^^^ t3, nswap p.p3 ^^^ t1⟩
  | .error f, _, _, _ => .error f
  | _, .error f, _, _ => .error f
  | _, _, .error f, _ => .error f
  | _, _, _, .error f => .error f

/-- Substitution Cipher A (R102). -/
def substitutionA (key : Byte) (p : Payload) (s : State) : State :=
  match subaOutput s.sbox key p with
  | .ok o    => succeed o s
  | .error f => raiseFailure f s

/-- The complement of each payload byte (R103). -/
def complementOutput (p : Payload) : Output :=
  ⟨complement p.p0, complement p.p1, complement p.p2, complement p.p3⟩

/-- Variant 7 (R103): with bit 0 of the key clear it continues as Substitution Cipher A; with it set
it writes the complement, with no range check of the key and no table. It does not know how it was
selected. -/
def variant7 (key : Byte) (p : Payload) (s : State) : State :=
  if key.getLsbD 0 then succeed (complementOutput p) s else substitutionA key p s

end Sys2Proof.Machine
end

