-- ==== Sys2Proof/Machine/Ciphers.lean ====
section
/-!
DEFINITION. The meanings of the operations that write `OUT`: Substitution Cipher A, Variant 7 by its
three selections, and Fixed Output (spec/42_ciphers.md R102, R103, R104).
-/

namespace Sys2Proof.Machine

/-- `SUBA` (R102). -/
def execSuba (key : Byte) (p : Payload) (s : State) : Host.Outcome State Fault Refusal :=
  .next (substitutionA key p s)

/-- `VAR7.K0` (R103): Variant 7 with the key 0. -/
def execVar7K0 (p : Payload) (s : State) : Host.Outcome State Fault Refusal :=
  .next (variant7 0x00#8 p s)

/-- `VAR7.K5` (R103): Variant 7 reached by bit 5 of the key, whatever the mode. -/
def execVar7K5 (key : Byte) (p : Payload) (s : State) : Host.Outcome State Fault Refusal :=
  .next (variant7 key p s)

/-- `VAR7.M` (R103): Variant 7 reached by mode 7. -/
def execVar7M (key : Byte) (p : Payload) (s : State) : Host.Outcome State Fault Refusal :=
  .next (variant7 key p s)

/-- `FIXED` (R104): the constant, whatever the key and the payload. -/
def execFixed (s : State) : Host.Outcome State Fault Refusal :=
  .next (succeed ⟨0x00#8, 0x00#8, 0x01#8, 0x02#8⟩ s)

end Sys2Proof.Machine
end

