-- ==== Sys2Proof/Machine/Reserved.lean ====
section
/-!
DEFINITION. The meanings of the operations whose only effect is a failure: the reserved modes 2 to 6
(spec/42_ciphers.md R105 to R109) and every unknown mode (R110). A reserved mode has no algorithm
and must be given none (spec/30_encoding.md R59).
-/

namespace Sys2Proof.Machine

/-- `RSV2` (R105). -/
def execRsv2 (s : State) : Host.Outcome State Fault Refusal :=
  .next (raiseFailure .unimplemented s)

/-- `RSV3` (R106). -/
def execRsv3 (s : State) : Host.Outcome State Fault Refusal :=
  .next (raiseFailure .unimplemented s)

/-- `RSV4` (R107). -/
def execRsv4 (s : State) : Host.Outcome State Fault Refusal :=
  .next (raiseFailure .unimplemented s)

/-- `RSV5` (R108). -/
def execRsv5 (s : State) : Host.Outcome State Fault Refusal :=
  .next (raiseFailure .unimplemented s)

/-- `RSV6` (R109). -/
def execRsv6 (s : State) : Host.Outcome State Fault Refusal :=
  .next (raiseFailure .unimplemented s)

/-- `INVM` (R110). -/
def execInvm (s : State) : Host.Outcome State Fault Refusal :=
  .next (raiseFailure .invalidMode s)

end Sys2Proof.Machine
end

