-- ==== Sys2Proof/Machine/Dispatch.lean ====
section
/-! DEFINITION. One arm per constructor of Instr: the operation a record selects, run on the state
(spec/41_dispatch.md R90 step 4, R94). -/

namespace Sys2Proof.Machine

-- The mode and the trailer are no operands of any operation (spec/42_ciphers.md R111 d).
def exec (i : Instr) (s : State) : Host.Outcome State Fault Refusal :=
  match i with
  | .var7K0 _ p _ => Sys2Proof.Machine.execVar7K0 p s
  | .var7K5 _ key p _ => Sys2Proof.Machine.execVar7K5 key p s
  | .suba key p _ => Sys2Proof.Machine.execSuba key p s
  | .rsv2 _ _ _ => Sys2Proof.Machine.execRsv2 s
  | .rsv3 _ _ _ => Sys2Proof.Machine.execRsv3 s
  | .rsv4 _ _ _ => Sys2Proof.Machine.execRsv4 s
  | .rsv5 _ _ _ => Sys2Proof.Machine.execRsv5 s
  | .rsv6 _ _ _ => Sys2Proof.Machine.execRsv6 s
  | .var7M key p _ => Sys2Proof.Machine.execVar7M key p s
  | .fixed _ _ _ => Sys2Proof.Machine.execFixed s
  | .invm _ _ _ _ => Sys2Proof.Machine.execInvm s

end Sys2Proof.Machine
end

