-- ==== Sys2Proof/Machine/Step.lean ====
section
/-!
DEFINITION. One step is one transaction `DECODE` on the record the host has presented
(spec/41_dispatch.md R90, spec/20_memory.md R41: one atomic step).
-/

namespace Sys2Proof.Machine

/-- `DECODE` (R90): the checksum first, the failure `InvalidChecksum` before any field selects
anything (R56, R121); then the selected operation. -/
def step (s : State) : Host.Outcome State Fault Refusal :=
  if trailerMatches (runChecksum s) then exec (select (fetchRecord s)) (runChecksum s)
  else .next (raiseFailure .invalidChecksum (runChecksum s))

/-- The state with the record numbered `w` in the record register, where the next step reads it:
what a host does when it presents a record (R11, R142; log entries 7 and 12). -/
def State.withFetchWord (s : State) (nbits w : Nat) : State :=
  { s with record := recordOfWord (BitVec.ofNat 64 (w % 2 ^ nbits)) }

end Sys2Proof.Machine
end

