-- ==== Sys2Proof/Machine/Transaction.lean ====
section
/-!
DEFINITION. The host's side of the interface (spec/41_dispatch.md R90, R91,
spec/70_reset_and_hazards.md R142, R152): presenting an input, and decoding a stream of groups, each
group one transaction into the same buffer. No definition here is core behaviour (spec/00_scope.md
R4): a step never calls them.
-/

namespace Sys2Proof.Machine

/-- The host presents a record for the next transaction (R11). -/
def present (rc : Record) (s : State) : State :=
  { s with record := rc }

/-- `decode(output, input)` as the host calls it (R90, R91): the first 8 bytes of the input are the
record; a shorter input is refused at the boundary (D10, U6). -/
def invoke (input : List Byte) (s : State) : Host.Outcome State Fault Refusal :=
  match recordOfBytes input with
  | .ok rc   => step (present rc s)
  | .error _ => .refused .shortInput

/-- A byte stream cut into consecutive 8-byte groups, a trailing partial group dropped (R142 a). -/
def groups : List Byte → List Record
  | b0 :: b1 :: b2 :: b3 :: b4 :: b5 :: b6 :: b7 :: rest =>
    ⟨b0, b1, ⟨b2, b3, b4, b5⟩, ⟨b6, b7⟩⟩ :: groups rest
  | _ => []

/-- One transaction per record, in order, going on after a failure (R127, R142 d, D23): the statuses
and buffers the host sees, in order. -/
def runRecords : List Record → State → List (Status × Output)
  | [], _ => []
  | rc :: rest, s =>
    match step (present rc s) with
    | .next t    => (t.status, t.out) :: runRecords rest t
    | .fault _   => []
    | .refused _ => []

end Sys2Proof.Machine
end

