-- ==== Sys2Proof/Safety.lean ====
section
/-!
DEFINITION. What claims about the machine speak of: a step that goes on, the invariant of the
machine, and what the host may rely on in a result.
-/

namespace Sys2Proof.Machine

/-- The outcome is a next state: the machine neither faults nor refuses (R134). -/
def goesOn (o : Host.Outcome State Fault Refusal) : Bool :=
  match o with
  | .next _    => true
  | .fault _   => false
  | .refused _ => false

/-- The invariant of the machine. The tables hold their fixed contents `tables` (R18, R23), and the
sequencing counters are in their ranges: `r` at most 3, `i` at most 16 (R17). -/
structure Invariant (tables : Tables) (s : State) : Prop where
  tables_fixed : s.sbox = tables
  round_le     : s.engine.round ≤ 3
  iter_le      : s.engine.iter ≤ 16

/-- What the host sees of a state after a transaction: `OUT` counts only after `Ok` (R148). -/
def visible (s : State) : Status × Option Output :=
  (s.status, if s.status = .ok then some s.out else none)

end Sys2Proof.Machine
end

