-- ==== Sys2Proof/WellFormed.lean ====
section
/-!
DEFINITION. Which terms of `Instr` stand for a record that selects them
(spec/30_encoding.md R56, R57, R58, R62): the row is the one the priorities choose, and the trailer
is the checksum.
-/

namespace Sys2Proof

/-- The mode bytes that select an operation other than `INVM` (R58, R60 b). -/
def modeKnown (mode : Byte) : Bool :=
  mode == 0x01#8 || mode == 0x02#8 || mode == 0x03#8 || mode == 0x04#8 || mode == 0x05#8
    || mode == 0x06#8 || mode == 0x07#8 || mode == 0xFF#8

/-- The row's own condition, with the rows of a smaller priority number shut out (R57, R58, R62). -/
def Instr.rowHolds : Instr → Bool
  | .var7K0 _ _ _     => true
  | .var7K5 _ key _ _ => key.getLsbD 5
  | .suba key _ _     => !keyOverride key
  | .rsv2 key _ _     => !keyOverride key
  | .rsv3 key _ _     => !keyOverride key
  | .rsv4 key _ _     => !keyOverride key
  | .rsv5 key _ _     => !keyOverride key
  | .rsv6 key _ _     => !keyOverride key
  | .var7M key _ _    => !keyOverride key
  | .fixed key _ _    => !keyOverride key
  | .invm mode key _ _ => !keyOverride key && !modeKnown mode

/-- The trailer is the checksum of the first six bytes (R56, the table's `valid_if`). -/
def Instr.trailerHolds (i : Instr) : Bool :=
  Machine.checksumOf (encode i) == (encode i).trailer

/-- A well-formed instruction: some record decodes to it. -/
def Instr.wellFormed (i : Instr) : Bool :=
  i.rowHolds && i.trailerHolds

end Sys2Proof
end

