-- ==== Sys2Proof/Certificates/Slice0/Obligations.lean ====
section
/-!
DEFINITION. The statements made of the machine, from the numbered rules of spec/. The namespace
`Sys2Proof.Claims` holds what the statements compare the machine with, written from the spec's
tables and derived forms, not from the model's definitions.
-/

namespace Sys2Proof.Claims

open Sys2Proof Sys2Proof.Machine

/-- What Substitution Cipher A writes for a table index (spec/42_ciphers.md R102). -/
def cipherA (T : Tables) (idx : Fin 32) (p : Payload) : Output :=
  ⟨nswap p.p0 ^^^ (T.get 0).get idx, nswap p.p1 ^^^ (T.get 2).get idx,
    nswap p.p2 ^^^ (T.get 3).get idx, nswap p.p3 ^^^ (T.get 1).get idx⟩

/-- The bitwise complement of each payload byte (R103). -/
def complemented (p : Payload) : Output :=
  ⟨~~~p.p0, ~~~p.p1, ~~~p.p2, ~~~p.p3⟩

/-- The complete outcome map over `KEY` and `MODE` (spec/30_encoding.md R61), with the checksum
failure before it (R56): the status and the buffer after a transaction on `rc` that started with the
buffer `old`. -/
def outcomeMap (T : Tables) (rc : Record) (old : Output) : Status × Output :=
  if checksumOf rc ≠ rc.trailer then (.invalidChecksum, old)
  else if rc.key = 0x00#8 then (.ok, cipherA T 0 rc.payload)
  else if rc.key.getLsbD 5 then
    if rc.key.getLsbD 0 then (.ok, complemented rc.payload) else (.invalidKey, old)
  else if rc.mode = 0x01#8 then
    if h : rc.key.toNat < 32 then (.ok, cipherA T ⟨rc.key.toNat, h⟩ rc.payload)
    else (.invalidKey, old)
  else if rc.mode = 0x07#8 then
    if rc.key.getLsbD 0 then (.ok, complemented rc.payload)
    else if h : rc.key.toNat < 32 then (.ok, cipherA T ⟨rc.key.toNat, h⟩ rc.payload)
    else (.invalidKey, old)
  else if 2 ≤ rc.mode.toNat ∧ rc.mode.toNat ≤ 6 then (.unimplemented, old)
  else if rc.mode = 0xFF#8 then (.ok, ⟨0x00#8, 0x00#8, 0x01#8, 0x02#8⟩)
  else (.invalidMode, old)

/-- The mode bytes that are no known variant (R58, R60 b). -/
def modeUnknown (mode : Byte) : Prop :=
  mode.toNat = 0 ∨ (8 ≤ mode.toNat ∧ mode.toNat ≤ 254)

/-- The key override (R57): the whole key is 0, or its bit 5 is 1. -/
def overrides (key : Byte) : Prop :=
  key = 0x00#8 ∨ key.getLsbD 5 = true

/-- The four bytes of the checksum state as one 32-bit word (spec/40_checksum.md R77 form 1). -/
def ring (e : Engine) : BitVec 32 :=
  e.cs2 ++ e.cs3 ++ e.cs0 ++ e.cs1

/-- The message, the first six bytes of a record, first byte at the top (R54, R35). -/
def message (rc : Record) : BitVec 48 :=
  rc.mode ++ rc.key ++ rc.payload.p0 ++ rc.payload.p1 ++ rc.payload.p2 ++ rc.payload.p3

/-- A record with the given message. -/
def recordOfMessage (m : BitVec 48) : Record :=
  ⟨m.extractLsb' 40 8, m.extractLsb' 32 8,
    ⟨m.extractLsb' 24 8, m.extractLsb' 16 8, m.extractLsb' 8 8, m.extractLsb' 0 8⟩, ⟨0, 0⟩⟩

/-- The checksum of a message as one 16-bit word, the high byte first (R36). -/
def checksumWord (m : BitVec 48) : BitVec 16 :=
  (checksumOf (recordOfMessage m)).ck0 ++ (checksumOf (recordOfMessage m)).ck1

/-- One step of the 16-bit recurrence (R77 form 2). -/
def recurrenceStep (crc : BitVec 16) (m : Bit) : BitVec 16 :=
  let shifted := (crc <<< 1) ||| (BitVec.ofBool m).setWidth 16
  if crc.getLsbD 15 then shifted ^^^ 0x8005#16 else shifted

/-- The 16-bit recurrence over the 48 message bits, `REC[0][7]` first, `REC[5][0]` last (R77). -/
def recurrence (m : BitVec 48) : BitVec 16 :=
  (List.range 48).foldl (fun crc j => recurrenceStep crc (m.getLsbD (47 - j))) 0xFFFF#16

/-- The rows of spec/opcode_table.json in the order of their priorities: match, mask, mnemonic. -/
def tableRows : List (BitVec 64 × BitVec 64 × String) :=
  [(0x0000000000000000#64, 0x00FF000000000000#64, "VAR7.K0"),
   (0x0020000000000000#64, 0x0020000000000000#64, "VAR7.K5"),
   (0x0100000000000000#64, 0xFF00000000000000#64, "SUBA"),
   (0x0200000000000000#64, 0xFF00000000000000#64, "RSV2"),
   (0x0300000000000000#64, 0xFF00000000000000#64, "RSV3"),
   (0x0400000000000000#64, 0xFF00000000000000#64, "RSV4"),
   (0x0500000000000000#64, 0xFF00000000000000#64, "RSV5"),
   (0x0600000000000000#64, 0xFF00000000000000#64, "RSV6"),
   (0x0700000000000000#64, 0xFF00000000000000#64, "VAR7.M"),
   (0xFF00000000000000#64, 0xFF00000000000000#64, "FIXED"),
   (0x0000000000000000#64, 0x0000000000000000#64, "INVM")]

/-- The first row that a word matches. -/
def firstRow (w : BitVec 64) : List (BitVec 64 × BitVec 64 × String) → Option String
  | [] => none
  | (pattern, mask, name) :: rest =>
    if w &&& mask = pattern then some name else firstRow w rest

/-- The mnemonic of an instruction's row. -/
def mnemonic : Instr → String
  | .var7K0 _ _ _   => "VAR7.K0"
  | .var7K5 _ _ _ _ => "VAR7.K5"
  | .suba _ _ _     => "SUBA"
  | .rsv2 _ _ _     => "RSV2"
  | .rsv3 _ _ _     => "RSV3"
  | .rsv4 _ _ _     => "RSV4"
  | .rsv5 _ _ _     => "RSV5"
  | .rsv6 _ _ _     => "RSV6"
  | .var7M _ _ _    => "VAR7.M"
  | .fixed _ _ _    => "FIXED"
  | .invm _ _ _ _   => "INVM"

/-- The same operation with the same key, and another mode byte, payload and trailer wherever the
operation's record has them as operands. -/
def withOperands (mode : Byte) (p : Payload) (ck : Trailer) : Instr → Instr
  | .var7K0 _ _ _     => .var7K0 mode p ck
  | .var7K5 _ key _ _ => .var7K5 mode key p ck
  | .suba key _ _     => .suba key p ck
  | .rsv2 key _ _     => .rsv2 key p ck
  | .rsv3 key _ _     => .rsv3 key p ck
  | .rsv4 key _ _     => .rsv4 key p ck
  | .rsv5 key _ _     => .rsv5 key p ck
  | .rsv6 key _ _     => .rsv6 key p ck
  | .var7M key _ _    => .var7M key p ck
  | .fixed key _ _    => .fixed key p ck
  | .invm _ key _ _   => .invm mode key p ck

/-- The payload byte that stands over output position `j`: `REC[2+j]`. -/
def payloadByte (rc : Record) (j : Fin 4) : Byte :=
  recordByte rc ⟨2 + j.val, by omega⟩

/-- What the host can use of a result: the buffer counts only after `Ok` (R148). -/
def shown (r : Status × Output) : Status × Option Output :=
  (r.1, if r.1 = .ok then some r.2 else none)

end Sys2Proof.Claims

open Sys2Proof Sys2Proof.Machine Sys2Proof.Claims

/-- R90: a transaction on a record that decodes to `i` runs the checksum engine and then `i`. -/
def Obligations.StepRunsTheDecodedInstruction : Prop :=
  ∀ (s : State) (i : Instr), decode s.record = .ok i →
    step s = exec i { s with engine := ckSum s.record s.engine }

/-- R76: either byte of the trailer differing from the engine's result ends the transaction with
`InvalidChecksum`, nothing but the engine and the status changed; with both equal that failure is
not raised. -/
def Obligations.StepRejectsExactlyAWrongTrailer : Prop :=
  ∀ s : State,
    ((ckSum s.record s.engine).cs0 ≠ s.record.trailer.ck0 ∨
        (ckSum s.record s.engine).cs1 ≠ s.record.trailer.ck1 →
      step s = .next { s with engine := ckSum s.record s.engine, status := .invalidChecksum }) ∧
    ((ckSum s.record s.engine).cs0 = s.record.trailer.ck0 →
      (ckSum s.record s.engine).cs1 = s.record.trailer.ck1 →
      ∀ t, step s = .next t → t.status ≠ .invalidChecksum)

/-- R23, R17: the state after reset meets the machine's invariant. That the counters are 0 there is
the model's choice (log entry 4). -/
def Obligations.ResetMeetsTheInvariant : Prop :=
  Invariant Config.sbox State.reset

/-- R18, R17: from every state that meets the invariant, whatever the tables hold, a step gives a
state that meets it. -/
def Obligations.EveryStepKeepsTheInvariant : Prop :=
  ∀ (T : Tables) (s t : State), Invariant T s → step s = .next t → Invariant T t

/-- Records of spec/95_test_vectors.md section 2.4 decode to the operations they name. -/
def Obligations.SampleRecordsDecode : Prop :=
  decodeTableWord 64 0x0000000000000000 = none ∧
  decodeTableWord 64 0x00000000000000D8 = some (.var7K0 0x00 ⟨0, 0, 0, 0⟩ ⟨0x00, 0xD8⟩) ∧
  decodeTableWord 64 0xFF21010203040B6C = some (.var7K5 0xFF 0x21 ⟨1, 2, 3, 4⟩ ⟨0x0B, 0x6C⟩) ∧
  decodeTableWord 64 0x011F7FA59400808C =
    some (.suba 0x1F ⟨0x7F, 0xA5, 0x94, 0x00⟩ ⟨0x80, 0x8C⟩) ∧
  decodeTableWord 64 0x0201010203042DC4 = some (.rsv2 0x01 ⟨1, 2, 3, 4⟩ ⟨0x2D, 0xC4⟩) ∧
  decodeTableWord 64 0x070112345678D60F =
    some (.var7M 0x01 ⟨0x12, 0x34, 0x56, 0x78⟩ ⟨0xD6, 0x0F⟩) ∧
  decodeTableWord 64 0xFF01DEADBEEFF5EA =
    some (.fixed 0x01 ⟨0xDE, 0xAD, 0xBE, 0xEF⟩ ⟨0xF5, 0xEA⟩) ∧
  decodeTableWord 64 0x100101020304C5C1 = some (.invm 0x10 0x01 ⟨1, 2, 3, 4⟩ ⟨0xC5, 0xC1⟩)

/-- R70: the carry out is bit 7, the carry in enters at bit 0, every other bit moves up by one. -/
def Obligations.RotatorShiftsThroughTheCarry : Prop :=
  ∀ (cin : Bit) (b : Byte),
    (rol1c cin b).1 = b.getLsbD 7 ∧ (rol1c cin b).2.getLsbD 0 = cin ∧
    (∀ j, j < 7 → (rol1c cin b).2.getLsbD (j + 1) = b.getLsbD j) ∧
    256 * (rol1c cin b).1.toNat + (rol1c cin b).2.toNat = 2 * b.toNat + cin.toNat

/-- R100: the two nibbles of the byte change places. -/
def Obligations.NibbleSwapExchangesTheNibbles : Prop :=
  ∀ b : Byte,
    (nswap b).extractLsb' 4 4 = b.extractLsb' 0 4 ∧ (nswap b).extractLsb' 0 4 = b.extractLsb' 4 4

/-- R71, R72: what `CKINIT` and `CKLOAD(r)` write to `CS`. -/
def Obligations.InitAndLoadSetTheChecksumState : Prop :=
  (∀ e : Engine, csByte (ckInit e) 0 = 0xFF#8 ∧ csByte (ckInit e) 1 = 0xFF#8 ∧
    csByte (ckInit e) 2 = 0x00#8 ∧ csByte (ckInit e) 3 = 0x00#8) ∧
  (∀ (rc : Record) (r : Fin 3) (e : Engine),
    csByte (ckLoad rc r e) 0 = csByte e 0 ∧ csByte (ckLoad rc r e) 1 = csByte e 1 ∧
    csByte (ckLoad rc r e) 2 = recordByte rc ⟨2 * r.val, by omega⟩ ∧
    csByte (ckLoad rc r e) 3 = recordByte rc ⟨2 * r.val + 1, by omega⟩)

/-- R73: the seven steps a to g, as the values of `CS` after an inner iteration. -/
def Obligations.InnerIterationFollowsTheSevenSteps : Prop :=
  ∀ e : Engine,
    let temp := e.cs0
    let b := rol1c false e.cs1
    let c := rol1c b.1 e.cs0
    let d := if e.cs2.getLsbD 7 then b.2 ||| 0x01#8 else b.2
    let x := rol1c c.1 e.cs3
    let f := rol1c x.1 e.cs2
    csByte (ckIter e) 0 = (if temp.getLsbD 7 then c.2 ^^^ 0x80#8 else c.2) ∧
    csByte (ckIter e) 1 = (if temp.getLsbD 7 then d ^^^ 0x05#8 else d) ∧
    csByte (ckIter e) 2 = f.2 ∧ csByte (ckIter e) 3 = x.2

/-- R77 form 1: an inner iteration rotates the 32-bit word left by one and applies the taps when bit
15, the old top bit of `CS[0]`, is set. -/
def Obligations.InnerIterationIsAThirtyTwoBitRing : Prop :=
  ∀ e : Engine,
    ring (ckIter e) =
      (ring e).rotateLeft 1 ^^^ (if (ring e).getLsbD 15 then 0x00008005#32 else 0#32)

/-- R77 form 2: the checksum of every record is the 16-bit recurrence over its 48 message bits. -/
def Obligations.ChecksumIsASixteenBitRecurrence : Prop :=
  ∀ rc : Record, (checksumOf rc).ck0 ++ (checksumOf rc).ck1 = recurrence (message rc)

/-- R78 a: the checksum is affine over GF(2). -/
def Obligations.ChecksumIsAffine : Prop :=
  ∀ a b : BitVec 48,
    checksumWord a ^^^ checksumWord b ^^^ checksumWord 0#48 = checksumWord (a ^^^ b)

/-- R78 b: flipping any one or any two of the 48 message bits changes the checksum. -/
def Obligations.OneOrTwoFlippedBitsAreDetected : Prop :=
  ∀ (m : BitVec 48) (i j : Fin 48),
    checksumWord (m ^^^ BitVec.twoPow 48 i.val) ≠ checksumWord m ∧
    (i ≠ j → checksumWord (m ^^^ BitVec.twoPow 48 i.val ^^^ BitVec.twoPow 48 j.val) ≠
      checksumWord m)

/-- R78 c: flipping the last message bit flips bit 0 of the low checksum byte, and no other bit. -/
def Obligations.LastMessageBitFlipsTheLastChecksumBit : Prop :=
  ∀ m : BitVec 48, checksumWord (m ^^^ 1#48) = checksumWord m ^^^ 1#16

/-- R13, R20, R75: the engine's result depends neither on the trailer nor on anything an earlier
transaction left in the engine. -/
def Obligations.ChecksumIgnoresTrailerAndLeftovers : Prop :=
  ∀ (mode key : Byte) (p : Payload) (ck ck' : Trailer) (e e' : Engine),
    ckSum ⟨mode, key, p, ck⟩ e = ckSum ⟨mode, key, p, ck'⟩ e'

/-- R17, R151: whatever the record, the counters end at 3 rounds and 16 iterations. -/
def Obligations.ChecksumWorkIsFixed : Prop :=
  ∀ (rc : Record) (e : Engine), (ckSum rc e).round = 3 ∧ (ckSum rc e).iter = 16

/-- R56: a wrong trailer selects nothing and ends the transaction with `InvalidChecksum`; a matching
one lets the selection go on; of the trailers of a prefix exactly one matches. -/
def Obligations.DecodeChecksTheTrailerFirst : Prop :=
  (∀ rc : Record, rc.trailer.ck0 ≠ (checksumOf rc).ck0 ∨ rc.trailer.ck1 ≠ (checksumOf rc).ck1 →
    decode rc = .error .invalidChecksum) ∧
  (∀ rc : Record, rc.trailer.ck0 = (checksumOf rc).ck0 → rc.trailer.ck1 = (checksumOf rc).ck1 →
    decode rc = .ok (select rc)) ∧
  (∀ s : State, decode s.record = .error .invalidChecksum →
    ∃ t, step s = .next t ∧ t.status = .invalidChecksum) ∧
  (∀ (mode key : Byte) (p : Payload),
    ∃! ck : Trailer, decode ⟨mode, key, p, ck⟩ = .ok (select ⟨mode, key, p, ck⟩))

/-- R57, R92: the key 0 and every key with bit 5 set select Variant 7 whatever the mode byte is. -/
def Obligations.ZeroOrBitFiveKeySelectsVariant7 : Prop :=
  (∀ (mode : Byte) (p : Payload) (ck : Trailer),
    select ⟨mode, 0x00#8, p, ck⟩ = .var7K0 mode p ck) ∧
  (∀ (mode key : Byte) (p : Payload) (ck : Trailer), key.getLsbD 5 = true →
    select ⟨mode, key, p, ck⟩ = .var7K5 mode key p ck) ∧
  (∀ key : Byte, keyOverride key = true ↔
    key.toNat = 0 ∨ (0x20 ≤ key.toNat ∧ key.toNat ≤ 0x3F) ∨
    (0x60 ≤ key.toNat ∧ key.toNat ≤ 0x7F) ∨ (0xA0 ≤ key.toNat ∧ key.toNat ≤ 0xBF) ∨
    (0xE0 ≤ key.toNat ∧ key.toNat ≤ 0xFF)) ∧
  ((List.range 256).filter fun n => keyOverride (BitVec.ofNat 8 n)).length = 129

/-- R93: with no key override the whole mode byte selects. -/
def Obligations.ModeByteSelectsTheOperation : Prop :=
  ∀ (mode key : Byte) (p : Payload) (ck : Trailer), ¬ overrides key →
    (mode = 0x01#8 → select ⟨mode, key, p, ck⟩ = .suba key p ck) ∧
    (mode = 0x02#8 → select ⟨mode, key, p, ck⟩ = .rsv2 key p ck) ∧
    (mode = 0x03#8 → select ⟨mode, key, p, ck⟩ = .rsv3 key p ck) ∧
    (mode = 0x04#8 → select ⟨mode, key, p, ck⟩ = .rsv4 key p ck) ∧
    (mode = 0x05#8 → select ⟨mode, key, p, ck⟩ = .rsv5 key p ck) ∧
    (mode = 0x06#8 → select ⟨mode, key, p, ck⟩ = .rsv6 key p ck) ∧
    (mode = 0x07#8 → select ⟨mode, key, p, ck⟩ = .var7M key p ck) ∧
    (mode = 0xFF#8 → select ⟨mode, key, p, ck⟩ = .fixed key p ck) ∧
    (modeUnknown mode → select ⟨mode, key, p, ck⟩ = .invm mode key p ck)

/-- R62: the selection is the first row of the table, in the order of the priorities, whose pattern
the record's number matches. -/
def Obligations.SelectionFollowsTheTable : Prop :=
  ∀ rc : Record, firstRow (wordOfRecord rc) tableRows = some (mnemonic (select rc))

/-- R52: a record and its 64-bit number determine each other. -/
def Obligations.WordAndRecordAgree : Prop :=
  (∀ rc : Record, recordOfWord (wordOfRecord rc) = rc) ∧
  (∀ w : BitVec 64, wordOfRecord (recordOfWord w) = w)

/-- R51, R56, R62: decoding the bytes of a well-formed instruction gives it back, every operand at
every value. -/
def Obligations.DecodingAnEncodedInstructionGivesItBack : Prop :=
  ∀ i : Instr, i.wellFormed = true → decodeBytes (encodeBytes i) = .ok i

/-- R51, R60: a record that decodes, decodes to a well-formed instruction whose record it is. -/
def Obligations.EncodingADecodedRecordGivesItBack : Prop :=
  ∀ (rc : Record) (i : Instr), decode rc = .ok i → encode i = rc ∧ i.wellFormed = true

/-- R91: of a longer input the first eight bytes are decoded and the rest has no effect; a shorter
one has no meaning (the refusal is log entry 13). -/
def Obligations.OnlyTheFirstEightBytesCount : Prop :=
  (∀ (rc : Record) (extra : List Byte) (s : State),
    decodeBytes (bytesOfRecord rc ++ extra) = decode rc ∧
    invoke (bytesOfRecord rc ++ extra) s = step (present rc s)) ∧
  (∀ (input : List Byte) (s : State), input.length < 8 → invoke input s = .refused .shortInput)

/-- R101: a lookup gives the table's byte for an index below 32 and is `InvalidKey` otherwise,
whatever the table. -/
def Obligations.SboxLookupNeedsAKeyBelow32 : Prop :=
  ∀ (T : Tables) (k : Fin 4) (key : Byte),
    (∀ h : key.toNat < 32, sboxRead T k key = .ok ((T.get k).get ⟨key.toNat, h⟩)) ∧
    (32 ≤ key.toNat → sboxRead T k key = .error .invalidKey)

/-- R102: with a key below 32, Substitution Cipher A writes the four bytes and ends in `Ok`; with
any other key it ends in `InvalidKey`. What `OUT` holds then is the statement
`FailureLeavesEveryByteAlone` (the spec's own decision D7, log entry 9). -/
def Obligations.SubstitutionAWritesOrRaisesInvalidKey : Prop :=
  ∀ (key : Byte) (p : Payload) (ck : Trailer) (s : State),
    (∀ h : key.toNat < 32, exec (.suba key p ck) s =
      .next { s with out := cipherA s.sbox ⟨key.toNat, h⟩ p, status := .ok }) ∧
    (32 ≤ key.toNat → ∃ t, exec (.suba key p ck) s = .next t ∧ t.status = .invalidKey)

/-- R103: with bit 0 of the key clear Variant 7 is Substitution Cipher A with the same key; with it
set it writes the complement of the payload. The zero key is index 0. -/
def Obligations.Variant7ComplementsOrDelegates : Prop :=
  ∀ (mode key : Byte) (p : Payload) (ck : Trailer) (s : State),
    exec (.var7K0 mode p ck) s = .next { s with out := cipherA s.sbox 0 p, status := .ok } ∧
    (key.getLsbD 0 = false →
      exec (.var7K5 mode key p ck) s = exec (.suba key p ck) s ∧
      exec (.var7M key p ck) s = exec (.suba key p ck) s) ∧
    (key.getLsbD 0 = true →
      exec (.var7K5 mode key p ck) s = .next { s with out := complemented p, status := .ok } ∧
      exec (.var7M key p ck) s = .next { s with out := complemented p, status := .ok })

/-- R104: Fixed Output writes its constant whatever the key and the payload. -/
def Obligations.FixedWritesItsConstant : Prop :=
  ∀ (key : Byte) (p : Payload) (ck : Trailer) (s : State), exec (.fixed key p ck) s =
    .next { s with out := ⟨0x00#8, 0x00#8, 0x01#8, 0x02#8⟩, status := .ok }

/-- R105 to R109: each reserved mode ends in `Unimplemented`, always, and writes nothing. -/
def Obligations.ReservedModesAreUnimplemented : Prop :=
  ∀ (key : Byte) (p : Payload) (ck : Trailer) (s : State),
    exec (.rsv2 key p ck) s = .next { s with status := .unimplemented } ∧
    exec (.rsv3 key p ck) s = .next { s with status := .unimplemented } ∧
    exec (.rsv4 key p ck) s = .next { s with status := .unimplemented } ∧
    exec (.rsv5 key p ck) s = .next { s with status := .unimplemented } ∧
    exec (.rsv6 key p ck) s = .next { s with status := .unimplemented }

/-- R110: any other mode ends in `InvalidMode`, always, and writes nothing; the key is not checked. -/
def Obligations.UnknownModeIsInvalidMode : Prop :=
  ∀ (mode key : Byte) (p : Payload) (ck : Trailer) (s : State),
    exec (.invm mode key p ck) s = .next { s with status := .invalidMode }

/-- R30, R32: the frame of every operation. The record, the tables and the checksum engine are
unchanged; the bytes stored to are `OUT[0]` to `OUT[3]`, and every other byte reads as before; the
reserved and unknown modes store nothing. -/
def Obligations.FrameOfEveryOperation : Prop :=
  ∀ (i : Instr) (s t : State), exec i s = .next t →
    t.record = s.record ∧ t.sbox = s.sbox ∧ t.engine = s.engine ∧
    (∀ a : Loc, (∀ j, a ≠ .out j) → memRead t a = memRead s a) ∧
    (mnemonic i ∈ ["RSV2", "RSV3", "RSV4", "RSV5", "RSV6", "INVM"] →
      ∀ a : Loc, memRead t a = memRead s a)

/-- R11, R18, R30: a whole transaction changes neither the record nor the tables, and no byte
outside `OUT`. -/
def Obligations.TransactionWritesOnlyTheOutputBuffer : Prop :=
  ∀ s t : State, step s = .next t →
    t.record = s.record ∧ t.sbox = s.sbox ∧ ∀ a : Loc, (∀ j, a ≠ .out j) → memRead t a = memRead s a

/-- R126: after a failure every byte of every space is what it was. For `InvalidKey` the spec marks
this its own decision (D7; log entry 9). -/
def Obligations.FailureLeavesEveryByteAlone : Prop :=
  ∀ s t : State, step s = .next t → t.status ≠ .ok → ∀ a : Loc, memRead t a = memRead s a

/-- R90, R134: every transaction ends in a next state. -/
def Obligations.EveryTransactionEnds : Prop :=
  ∀ s : State, ∃ t, step s = .next t

/-- R61, R56: the status and the output buffer after every transaction are those of the spec's
outcome map. -/
def Obligations.TransactionFollowsTheOutcomeMap : Prop :=
  ∀ s : State, ∃ t, step s = .next t ∧ (t.status, t.out) = outcomeMap s.sbox s.record s.out

/-- R19: two states with the same record and tables give the same status, and the same buffer after
`Ok`; with the same buffer before, the same buffer whatever the outcome. Of the storage spaces a
transaction changes its output buffer only. -/
def Obligations.ResultDependsOnRecordAndTablesOnly : Prop :=
  ∀ s s' t t' : State, s.record = s'.record → s.sbox = s'.sbox →
    step s = .next t → step s' = .next t' →
    t.record = s.record ∧ t.sbox = s.sbox ∧ t.status = t'.status ∧ (t.status = .ok → t.out = t'.out) ∧ (s.out = s'.out → t.out = t'.out)

/-- R122: `InvalidKey` is raised exactly where Substitution Cipher A is reached with a key of 32 or
more: mode 1, mode 7 with an even key, and the key override with an even key. -/
def Obligations.InvalidKeyOnlyWhereCipherAIsReached : Prop :=
  ∀ s t : State, step s = .next t →
    (t.status = .invalidKey ↔
      checksumOf s.record = s.record.trailer ∧ 32 ≤ s.record.key.toNat ∧
      ((¬ overrides s.record.key ∧ s.record.mode = 0x01#8) ∨
        (¬ overrides s.record.key ∧ s.record.mode = 0x07#8 ∧ s.record.key.getLsbD 0 = false) ∨
        (overrides s.record.key ∧ s.record.key.getLsbD 0 = false)))

/-- R120, R121, R123, R124: the conditions of the other three failures. -/
def Obligations.OtherFailuresHaveTheirCauses : Prop :=
  ∀ s t : State, step s = .next t →
    (t.status = .invalidChecksum ↔ checksumOf s.record ≠ s.record.trailer) ∧
    (t.status = .invalidMode ↔ checksumOf s.record = s.record.trailer ∧
      ¬ overrides s.record.key ∧ modeUnknown s.record.mode) ∧
    (t.status = .unimplemented ↔ checksumOf s.record = s.record.trailer ∧
      ¬ overrides s.record.key ∧ 2 ≤ s.record.mode.toNat ∧ s.record.mode.toNat ≤ 6)

/-- R111 a, b: the payload can be computed back from the output of Substitution Cipher A and from the
output of the complement arm. -/
def Obligations.CipherOutputsCanBeInverted : Prop :=
  (∀ (key : Byte) (p : Payload) (ck : Trailer) (s t : State) (h : key.toNat < 32),
    exec (.suba key p ck) s = .next t →
    p.p0 = nswap (t.out.o0 ^^^ (s.sbox.get 0).get ⟨key.toNat, h⟩) ∧
    p.p1 = nswap (t.out.o1 ^^^ (s.sbox.get 2).get ⟨key.toNat, h⟩) ∧
    p.p2 = nswap (t.out.o2 ^^^ (s.sbox.get 3).get ⟨key.toNat, h⟩) ∧
    p.p3 = nswap (t.out.o3 ^^^ (s.sbox.get 1).get ⟨key.toNat, h⟩)) ∧
  (∀ (key : Byte) (p : Payload) (ck : Trailer) (s t : State), key.getLsbD 0 = true →
    exec (.var7M key p ck) s = .next t →
    complemented ⟨t.out.o0, t.out.o1, t.out.o2, t.out.o3⟩ = ⟨p.p0, p.p1, p.p2, p.p3⟩)

/-- R111 d, e: for one operation and one key, the status does not depend on the mode byte, the
payload, the trailer or the checksum engine, and output byte `j` depends on payload byte `j` alone. -/
def Obligations.OutputBytesDoNotMix : Prop :=
  ∀ (i : Instr) (mode : Byte) (p : Payload) (ck : Trailer) (s s' t t' : State),
    s.sbox = s'.sbox → exec i s = .next t → exec (withOperands mode p ck i) s' = .next t' →
    t.status = t'.status ∧
    (t.status = .ok → ∀ j : Fin 4,
      payloadByte (encode i) j = payloadByte (encode (withOperands mode p ck i)) j →
      outputByte t.out j = outputByte t'.out j)

/-- R142 a: a stream of `n` bytes yields `n / 8` groups, group `g` being the bytes `8 * g` to
`8 * g + 7`; the last `n mod 8` bytes are in none. -/
def Obligations.GroupsCutTheStream : Prop :=
  ∀ bytes : List Byte,
    (groups bytes).length = bytes.length / 8 ∧
    ∀ (g : Nat) (h : g < (groups bytes).length),
      bytesOfRecord (groups bytes)[g] = (bytes.drop (8 * g)).take 8

/-- R127, R19: a stream of records gives one result a record, and each result the host can use is
that of the record alone from any state with the same tables, whatever came before it. -/
def Obligations.StreamResultsAreIndependent : Prop :=
  ∀ (rs : List Record) (s s0 : State), s.sbox = s0.sbox →
    (runRecords rs s).length = rs.length ∧
    ∀ (g : Nat) (h : g < rs.length), ∃ t, step (present rs[g] s0) = .next t ∧
      ((runRecords rs s)[g]?).map shown = some (visible t)
end

