-- ==== Sys2Proof/Laws/Checksum.lean ====
section
/-!
SUPPORT. The small lemmas of the checksum engine: what the rotator gives, what each operation of the
engine leaves alone, and what an inner iteration leaves in the wires and the counters.
-/

namespace Sys2Proof.Machine

@[simp] theorem rol1c_carry (cin : Bit) (b : Byte) : (rol1c cin b).1 = b.getLsbD 7 := rfl

@[simp] theorem ckInit_carry (e : Engine) : (ckInit e).carry = e.carry := rfl
@[simp] theorem ckInit_temp (e : Engine) : (ckInit e).temp = e.temp := rfl
@[simp] theorem ckInit_round (e : Engine) : (ckInit e).round = e.round := rfl
@[simp] theorem ckInit_iter (e : Engine) : (ckInit e).iter = e.iter := rfl

@[simp] theorem ckLoad_cs0 (rc : Record) (r : Fin 3) (e : Engine) : (ckLoad rc r e).cs0 = e.cs0 := rfl
@[simp] theorem ckLoad_cs1 (rc : Record) (r : Fin 3) (e : Engine) : (ckLoad rc r e).cs1 = e.cs1 := rfl
@[simp] theorem ckLoad_cs2 (rc : Record) (r : Fin 3) (e : Engine) :
    (ckLoad rc r e).cs2 = (chunk rc r).1 := rfl
@[simp] theorem ckLoad_cs3 (rc : Record) (r : Fin 3) (e : Engine) :
    (ckLoad rc r e).cs3 = (chunk rc r).2 := rfl
@[simp] theorem ckLoad_carry (rc : Record) (r : Fin 3) (e : Engine) :
    (ckLoad rc r e).carry = e.carry := rfl
@[simp] theorem ckLoad_temp (rc : Record) (r : Fin 3) (e : Engine) :
    (ckLoad rc r e).temp = e.temp := rfl
@[simp] theorem ckLoad_round (rc : Record) (r : Fin 3) (e : Engine) :
    (ckLoad rc r e).round = e.round := rfl
@[simp] theorem ckLoad_iter (rc : Record) (r : Fin 3) (e : Engine) :
    (ckLoad rc r e).iter = e.iter := rfl

/-- What an inner iteration leaves in the wires and the counters. -/
theorem ckIter_wires (e : Engine) :
    (ckIter e).carry = e.cs2.getLsbD 7 ∧ (ckIter e).temp = e.cs0 ∧
      (ckIter e).round = e.round ∧ (ckIter e).iter = e.iter := by
  exact ⟨rfl, rfl, rfl, rfl⟩

/-- The counters after `n` iterations: `r` as before, `i` advanced by `n`. -/
theorem ckIters_counters (n : Nat) (e : Engine) :
    (ckIters n e).round = e.round ∧ (ckIters n e).iter = e.iter + n := by
  induction n generalizing e with
  | zero => exact ⟨rfl, rfl⟩
  | succ n ih =>
    obtain ⟨h1, h2⟩ := ih (countIter (ckIter e))
    refine ⟨h1, h2.trans ?_⟩
    show e.iter + 1 + n = e.iter + (n + 1)
    omega

/-- `n` iterations can be run in two parts. -/
theorem ckIters_add (m n : Nat) (e : Engine) : ckIters (m + n) e = ckIters n (ckIters m e) := by
  induction m generalizing e with
  | zero => rw [Nat.zero_add]; rfl
  | succ m ih => rw [Nat.succ_add]; exact ih _

end Sys2Proof.Machine
end

