-- ==== Sys2Proof/Laws/State.lean ====
section
/-!
SUPPORT. One lemma per field per update of the state, so that no later proof unfolds a record
update.
-/

namespace Sys2Proof.Machine

@[simp] theorem succeed_record (o : Output) (s : State) : (succeed o s).record = s.record := rfl
@[simp] theorem succeed_out (o : Output) (s : State) : (succeed o s).out = o := rfl
@[simp] theorem succeed_status (o : Output) (s : State) : (succeed o s).status = .ok := rfl
@[simp] theorem succeed_engine (o : Output) (s : State) : (succeed o s).engine = s.engine := rfl
@[simp] theorem succeed_sbox (o : Output) (s : State) : (succeed o s).sbox = s.sbox := rfl

@[simp] theorem raiseFailure_record (f : Failure) (s : State) :
    (raiseFailure f s).record = s.record := rfl
@[simp] theorem raiseFailure_out (f : Failure) (s : State) : (raiseFailure f s).out = s.out := rfl
@[simp] theorem raiseFailure_status (f : Failure) (s : State) :
    (raiseFailure f s).status = failureStatus f := rfl
@[simp] theorem raiseFailure_engine (f : Failure) (s : State) :
    (raiseFailure f s).engine = s.engine := rfl
@[simp] theorem raiseFailure_sbox (f : Failure) (s : State) :
    (raiseFailure f s).sbox = s.sbox := rfl

@[simp] theorem runChecksum_record (s : State) : (runChecksum s).record = s.record := rfl
@[simp] theorem runChecksum_out (s : State) : (runChecksum s).out = s.out := rfl
@[simp] theorem runChecksum_status (s : State) : (runChecksum s).status = s.status := rfl
@[simp] theorem runChecksum_engine (s : State) :
    (runChecksum s).engine = ckSum s.record s.engine := rfl
@[simp] theorem runChecksum_sbox (s : State) : (runChecksum s).sbox = s.sbox := rfl

@[simp] theorem present_record (rc : Record) (s : State) : (present rc s).record = rc := rfl
@[simp] theorem present_out (rc : Record) (s : State) : (present rc s).out = s.out := rfl
@[simp] theorem present_status (rc : Record) (s : State) : (present rc s).status = s.status := rfl
@[simp] theorem present_engine (rc : Record) (s : State) : (present rc s).engine = s.engine := rfl
@[simp] theorem present_sbox (rc : Record) (s : State) : (present rc s).sbox = s.sbox := rfl

theorem withFetchWord_eq_present (s : State) (nbits w : Nat) :
    s.withFetchWord nbits w = present (recordOfWord (BitVec.ofNat 64 (w % 2 ^ nbits))) s := rfl

/-- No failure is reported as success. -/
@[simp] theorem failureStatus_ne_ok (f : Failure) : failureStatus f ≠ .ok := by
  cases f <;> decide

end Sys2Proof.Machine
end

