-- ==== Sys2Proof/Laws/Memory.lean ====
section
/-!
SUPPORT. The laws of the storage spaces (spec/20_memory.md R30 to R33): what a write of one output
byte changes and what it leaves alone. The spaces are arrays of fixed size held as structures, one
cell an index, so equal contents are equal data and there is no further form to keep.
-/

namespace Sys2Proof.Machine

@[simp] theorem writeOut_record (i : Fin 4) (v : Byte) (s : State) :
    (writeOut i v s).record = s.record := by
  fin_cases i <;> rfl
@[simp] theorem writeOut_status (i : Fin 4) (v : Byte) (s : State) :
    (writeOut i v s).status = s.status := by
  fin_cases i <;> rfl
@[simp] theorem writeOut_engine (i : Fin 4) (v : Byte) (s : State) :
    (writeOut i v s).engine = s.engine := by
  fin_cases i <;> rfl
@[simp] theorem writeOut_sbox (i : Fin 4) (v : Byte) (s : State) :
    (writeOut i v s).sbox = s.sbox := by
  fin_cases i <;> rfl

/-- A byte of `OUT` reads as it was written. -/
theorem memRead_writeOut_same (i : Fin 4) (v : Byte) (s : State) :
    memRead (writeOut i v s) (.out i) = v := by
  fin_cases i <;> rfl

/-- A write of one byte of `OUT` leaves every other byte of every space alone. -/
theorem memRead_writeOut_other (i : Fin 4) (v : Byte) (s : State) (a : Loc) (h : a ≠ .out i) :
    memRead (writeOut i v s) a = memRead s a := by
  cases a with
  | record j => simp [memRead]
  | sbox k j => simp [memRead]
  | out j =>
    have hij : j ≠ i := fun e => h (by rw [e])
    fin_cases i <;> fin_cases j <;> first | rfl | exact absurd rfl hij

/-- Ending with success changes bytes of `OUT` only. -/
theorem memRead_succeed (o : Output) (s : State) (a : Loc) (h : ∀ i, a ≠ .out i) :
    memRead (succeed o s) a = memRead s a := by
  cases a with
  | record j => rfl
  | sbox k j => rfl
  | out j => exact absurd rfl (h j)

/-- Taking a failure changes no byte of any space. -/
theorem memRead_raiseFailure (f : Failure) (s : State) (a : Loc) :
    memRead (raiseFailure f s) a = memRead s a := by
  cases a <;> rfl

/-- Running the checksum engine changes no byte of any space. -/
theorem memRead_runChecksum (s : State) (a : Loc) : memRead (runChecksum s) a = memRead s a := by
  cases a <;> rfl

/-- Equal contents of `OUT` are equal data. -/
theorem output_ext (o o' : Output) (h : ∀ i, outputByte o i = outputByte o' i) : o = o' := by
  obtain ⟨a0, a1, a2, a3⟩ := o
  obtain ⟨b0, b1, b2, b3⟩ := o'
  have h0 : a0 = b0 := h 0
  have h1 : a1 = b1 := h 1
  have h2 : a2 = b2 := h 2
  have h3 : a3 = b3 := h 3
  rw [h0, h1, h2, h3]

/-- Equal bytes of `REC` are equal records. -/
theorem record_ext (rc rc' : Record) (h : ∀ i, recordByte rc i = recordByte rc' i) : rc = rc' := by
  obtain ⟨a0, a1, ⟨a2, a3, a4, a5⟩, ⟨a6, a7⟩⟩ := rc
  obtain ⟨b0, b1, ⟨b2, b3, b4, b5⟩, ⟨b6, b7⟩⟩ := rc'
  have h0 : a0 = b0 := h 0
  have h1 : a1 = b1 := h 1
  have h2 : a2 = b2 := h 2
  have h3 : a3 = b3 := h 3
  have h4 : a4 = b4 := h 4
  have h5 : a5 = b5 := h 5
  have h6 : a6 = b6 := h 6
  have h7 : a7 = b7 := h 7
  rw [h0, h1, h2, h3, h4, h5, h6, h7]

end Sys2Proof.Machine
end

