-- ==== Sys2Proof/Laws/Operations.lean ====
section
/-!
SUPPORT. One lemma per shared operation: everything it can do. Later proofs cite these and unfold no
operation.
-/

namespace Sys2Proof.Machine

/-- A lookup with an index in range gives the table's byte (spec/42_ciphers.md R101). -/
theorem sboxRead_of_lt (T : Tables) (k : Fin 4) (key : Byte) (h : key.toNat < 32) :
    sboxRead T k key = .ok ((T.get k).get ⟨key.toNat, h⟩) := by
  simp [sboxRead, h]

/-- A lookup with an index out of range is `InvalidKey`, whatever the table (R101). -/
theorem sboxRead_of_ge (T : Tables) (k : Fin 4) (key : Byte) (h : 32 ≤ key.toNat) :
    sboxRead T k key = .error .invalidKey := by
  simp [sboxRead, Nat.not_lt.mpr h]

/-- What Substitution Cipher A writes when the key is in range. -/
theorem subaOutput_of_lt (T : Tables) (key : Byte) (p : Payload) (h : key.toNat < 32) :
    subaOutput T key p = .ok
      ⟨nswap p.p0 ^^^ (T.get 0).get ⟨key.toNat, h⟩, nswap p.p1 ^^^ (T.get 2).get ⟨key.toNat, h⟩,
        nswap p.p2 ^^^ (T.get 3).get ⟨key.toNat, h⟩,
        nswap p.p3 ^^^ (T.get 1).get ⟨key.toNat, h⟩⟩ := by
  simp [subaOutput, sboxRead_of_lt, h]

/-- Substitution Cipher A fails as a whole when the key is out of range. -/
theorem subaOutput_of_ge (T : Tables) (key : Byte) (p : Payload) (h : 32 ≤ key.toNat) :
    subaOutput T key p = .error .invalidKey := by
  simp [subaOutput, sboxRead_of_ge, h]

/-- Substitution Cipher A ends with success or takes `InvalidKey`, and nothing else. -/
theorem substitutionA_cases (key : Byte) (p : Payload) (s : State) :
    (key.toNat < 32 ∧ ∃ o, subaOutput s.sbox key p = .ok o ∧
      substitutionA key p s = succeed o s) ∨
    (32 ≤ key.toNat ∧ substitutionA key p s = raiseFailure .invalidKey s) := by
  rcases Nat.lt_or_ge key.toNat 32 with h | h
  · exact .inl ⟨h, _, subaOutput_of_lt _ _ _ h, by simp [substitutionA, subaOutput_of_lt, h]⟩
  · exact .inr ⟨h, by simp [substitutionA, subaOutput_of_ge, h]⟩

/-- Variant 7 writes the complement or continues as Substitution Cipher A. -/
theorem variant7_cases (key : Byte) (p : Payload) (s : State) :
    (key.getLsbD 0 = true ∧ variant7 key p s = succeed (complementOutput p) s) ∨
    (key.getLsbD 0 = false ∧ variant7 key p s = substitutionA key p s) := by
  cases h : key.getLsbD 0
  · exact .inr ⟨rfl, by simp only [variant7, h, Bool.false_eq_true, if_false]⟩
  · exact .inl ⟨rfl, by simp only [variant7, h, if_true]⟩

/-- Every operation ends with success or takes a failure. -/
theorem exec_cases (i : Instr) (s : State) :
    (∃ o, exec i s = .next (succeed o s)) ∨ (∃ f, exec i s = .next (raiseFailure f s)) := by
  have hA : ∀ key p, (∃ o, substitutionA key p s = succeed o s) ∨
      ∃ f, substitutionA key p s = raiseFailure f s := fun key p => by
    rcases substitutionA_cases key p s with ⟨_, o, _, h⟩ | ⟨_, h⟩
    · exact .inl ⟨o, h⟩
    · exact .inr ⟨_, h⟩
  have hV : ∀ key p, (∃ o, variant7 key p s = succeed o s) ∨
      ∃ f, variant7 key p s = raiseFailure f s := fun key p => by
    rcases variant7_cases key p s with ⟨_, h⟩ | ⟨_, h⟩
    · exact .inl ⟨_, h⟩
    · exact h ▸ hA key p
  have lift : ∀ t : State, ((∃ o, t = succeed o s) ∨ ∃ f, t = raiseFailure f s) →
      (∃ o, (Host.Outcome.next t : Host.Outcome State Fault Refusal) = .next (succeed o s)) ∨
      ∃ f, (Host.Outcome.next t : Host.Outcome State Fault Refusal) = .next (raiseFailure f s) := by
    rintro t (⟨o, rfl⟩ | ⟨f, rfl⟩)
    · exact .inl ⟨o, rfl⟩
    · exact .inr ⟨f, rfl⟩
  cases i with
  | var7K0 mode p ck => exact lift _ (hV _ p)
  | var7K5 mode key p ck => exact lift _ (hV key p)
  | suba key p ck => exact lift _ (hA key p)
  | var7M key p ck => exact lift _ (hV key p)
  | fixed key p ck => exact .inl ⟨_, rfl⟩
  | rsv2 key p ck => exact .inr ⟨_, rfl⟩
  | rsv3 key p ck => exact .inr ⟨_, rfl⟩
  | rsv4 key p ck => exact .inr ⟨_, rfl⟩
  | rsv5 key p ck => exact .inr ⟨_, rfl⟩
  | rsv6 key p ck => exact .inr ⟨_, rfl⟩
  | invm mode key p ck => exact .inr ⟨_, rfl⟩

/-- Everything a transaction can do: it rejects the trailer, or it runs the selected operation. -/
theorem step_cases (s : State) :
    (trailerMatches (runChecksum s) = false ∧
      step s = .next (raiseFailure .invalidChecksum (runChecksum s))) ∨
    (trailerMatches (runChecksum s) = true ∧
      step s = exec (select s.record) (runChecksum s)) := by
  cases h : trailerMatches (runChecksum s)
  · exact .inl ⟨rfl, by simp only [step, h, Bool.false_eq_true, if_false]⟩
  · exact .inr ⟨rfl, by simp only [step, h, if_true, fetchRecord]⟩

end Sys2Proof.Machine
end

