-- ==== Sys2Proof/Laws/PerInstr.lean ====
section
/-!
SUPPORT. Statements made of every instruction as syntax, one lemma per constructor. The family
`RowPattern`: the record of an instruction whose row condition holds matches that row's pattern in
the selection table (spec/30_encoding.md R62).
-/

namespace Sys2Proof.Laws

/-- The record's number, masked by the row's `mask`, is the row's `match`. -/
def RowPattern.Statement (i : Instr) : Prop :=
  i.rowHolds = true → wordOfRecord (encode i) &&& rowMask i = rowMatch i

/-- A mask that keeps the first byte keeps just the mode byte. -/
theorem word_and_mode_mask (rc : Record) :
    wordOfRecord rc &&& 0xFF00000000000000#64 = rc.mode ++ 0#56 := by
  refine BitVec.eq_of_getLsbD_eq fun j hj => ?_
  simp only [wordOfRecord, BitVec.getLsbD_and, BitVec.getLsbD_append]
  interval_cases j <;> simp

/-- A mask that keeps the second byte keeps just the key byte. -/
theorem word_and_key_mask (rc : Record) :
    wordOfRecord rc &&& 0x00FF000000000000#64 = 0#8 ++ rc.key ++ 0#48 := by
  refine BitVec.eq_of_getLsbD_eq fun j hj => ?_
  simp only [wordOfRecord, BitVec.getLsbD_and, BitVec.getLsbD_append]
  interval_cases j <;> simp

/-- A mask that keeps bit 53 keeps just bit 5 of the key byte. -/
theorem word_and_override_mask (rc : Record) (h : rc.key.getLsbD 5 = true) :
    wordOfRecord rc &&& 0x0020000000000000#64 = 0x0020000000000000#64 := by
  refine BitVec.eq_of_getLsbD_eq fun j hj => ?_
  simp only [wordOfRecord, BitVec.getLsbD_and, BitVec.getLsbD_append]
  interval_cases j <;> simp [h]

theorem RowPattern.var7K0 (mode : Byte) (p : Payload) (ck : Trailer) :
    RowPattern.Statement (.var7K0 mode p ck) := fun _ =>
  (word_and_key_mask _).trans (show 0#8 ++ 0x00#8 ++ 0#48 = 0x0000000000000000#64 by decide)

theorem RowPattern.var7K5 (mode key : Byte) (p : Payload) (ck : Trailer) :
    RowPattern.Statement (.var7K5 mode key p ck) := fun h =>
  word_and_override_mask _ h

theorem RowPattern.suba (key : Byte) (p : Payload) (ck : Trailer) :
    RowPattern.Statement (.suba key p ck) := fun _ =>
  (word_and_mode_mask _).trans (show 0x01#8 ++ 0#56 = 0x0100000000000000#64 by decide)

theorem RowPattern.rsv2 (key : Byte) (p : Payload) (ck : Trailer) :
    RowPattern.Statement (.rsv2 key p ck) := fun _ =>
  (word_and_mode_mask _).trans (show 0x02#8 ++ 0#56 = 0x0200000000000000#64 by decide)

theorem RowPattern.rsv3 (key : Byte) (p : Payload) (ck : Trailer) :
    RowPattern.Statement (.rsv3 key p ck) := fun _ =>
  (word_and_mode_mask _).trans (show 0x03#8 ++ 0#56 = 0x0300000000000000#64 by decide)

theorem RowPattern.rsv4 (key : Byte) (p : Payload) (ck : Trailer) :
    RowPattern.Statement (.rsv4 key p ck) := fun _ =>
  (word_and_mode_mask _).trans (show 0x04#8 ++ 0#56 = 0x0400000000000000#64 by decide)

theorem RowPattern.rsv5 (key : Byte) (p : Payload) (ck : Trailer) :
    RowPattern.Statement (.rsv5 key p ck) := fun _ =>
  (word_and_mode_mask _).trans (show 0x05#8 ++ 0#56 = 0x0500000000000000#64 by decide)

theorem RowPattern.rsv6 (key : Byte) (p : Payload) (ck : Trailer) :
    RowPattern.Statement (.rsv6 key p ck) := fun _ =>
  (word_and_mode_mask _).trans (show 0x06#8 ++ 0#56 = 0x0600000000000000#64 by decide)

theorem RowPattern.var7M (key : Byte) (p : Payload) (ck : Trailer) :
    RowPattern.Statement (.var7M key p ck) := fun _ =>
  (word_and_mode_mask _).trans (show 0x07#8 ++ 0#56 = 0x0700000000000000#64 by decide)

theorem RowPattern.fixed (key : Byte) (p : Payload) (ck : Trailer) :
    RowPattern.Statement (.fixed key p ck) := fun _ =>
  (word_and_mode_mask _).trans (show 0xFF#8 ++ 0#56 = 0xFF00000000000000#64 by decide)

theorem RowPattern.invm (mode key : Byte) (p : Payload) (ck : Trailer) :
    RowPattern.Statement (.invm mode key p ck) := fun _ => BitVec.and_zero

end Sys2Proof.Laws
end

