-- ==== Sys2Proof/Tests/Slice0.lean ====
section
/-!
SUPPORT. Tests on one operation or one step each. Every expected value is taken from
spec/95_test_vectors.md (the id of its example or vector is named) or worked out by hand from a rule,
and the encoded words are written out bit by bit from the `encoding` column of spec/opcode_table.json.
The `test_witness_` theorems show that the hypotheses of a statement can be met.
-/

namespace Sys2Proof.Tests

open Sys2Proof Sys2Proof.Machine Sys2Proof.Claims

-- One theorem at a time: the checks below would otherwise each wait in a thread of its own.
set_option Elab.async false

/-- The test fixture `SBOX_TEST[k][i] = 32*k + i` of spec/95_test_vectors.md section 2.1. It is NOT the
content of the hardware's tables. -/
def fixture : Tables :=
  Vector.ofFn fun k => Vector.ofFn fun i => BitVec.ofNat 8 (32 * k.val + i.val)

/-- A state with the record numbered `w` presented, `OUT = AA BB CC DD`, the fixture's tables, and
leftovers of some earlier transaction in the engine. -/
def presented (w : Nat) : State where
  record := recordOfWord (BitVec.ofNat 64 w)
  out    := ⟨0xAA, 0xBB, 0xCC, 0xDD⟩
  status := .unimplemented
  engine := ⟨0x12, 0x34, 0x56, 0x78, true, 0x9A, 2, 7⟩
  sbox   := fixture

/-- The status and the buffer of a next state. -/
def result (o : Host.Outcome State Fault Refusal) : Option (Status × Output) :=
  match o with
  | .next t    => some (t.status, t.out)
  | .fault _   => none
  | .refused _ => none

/-- A result is the result of a next state. -/
theorem next_of_result {o : Host.Outcome State Fault Refusal} {st : Status} {b : Output}
    (h : result o = some (st, b)) : ∃ t, o = .next t ∧ t.status = st ∧ t.out = b := by
  cases o with
  | next t => exact ⟨t, rfl, by simpa [result] using h⟩
  | fault r => simp [result] at h
  | refused r => simp [result] at h

/-! ### Primitives (section 1, S1 to S6; section 2.2) -/

theorem test_rol1c_source : rol1c false 0xFF = (true, 0xFE) ∧ rol1c false 0x55 = (false, 0xAA) ∧
    rol1c true 0xAA = (true, 0x55) := by decide
theorem test_rol1c_corners : rol1c true 0x00 = (false, 0x01) ∧ rol1c true 0x80 = (true, 0x01) ∧
    rol1c true 0xFF = (true, 0xFF) := by decide
theorem test_nswap_source : nswap 0x7F = 0xF7 ∧ nswap 0xA5 = 0x5A ∧ nswap 0x94 = 0x49 := by decide

/-- The four bytes of `CS`. -/
def cs (e : Engine) : List Byte := [e.cs0, e.cs1, e.cs2, e.cs3]

/-- An engine with the given `CS`, and stale wires. -/
def engineOf (a b c d : Byte) : Engine := ⟨a, b, c, d, true, 0xFF, 1, 1⟩

theorem test_ckIter_taps : cs (ckIter (engineOf 0xFF 0xFF 0x00 0x00)) = [0x7F, 0xFB, 0x00, 0x01] ∧
    cs (ckIter (engineOf 0x80 0x00 0x00 0x00)) = [0x80, 0x05, 0x00, 0x01] := by decide
theorem test_ckIter_injection :
    cs (ckIter (engineOf 0x00 0x00 0x80 0x00)) = [0x00, 0x01, 0x00, 0x00] ∧
    cs (ckIter (engineOf 0x80 0x00 0x80 0x00)) = [0x80, 0x04, 0x00, 0x01] := by decide
theorem test_ckIter_carries :
    cs (ckIter (engineOf 0x00 0x80 0x00 0x80)) = [0x01, 0x00, 0x01, 0x00] ∧
    cs (ckIter (engineOf 0x7F 0xFF 0xFF 0xFF)) = [0xFF, 0xFF, 0xFF, 0xFE] ∧
    cs (ckIter (engineOf 0xC0 0x01 0x7F 0x80)) = [0x00, 0x07, 0xFF, 0x01] := by decide

/-- The message of trace T2 (section 2.3). -/
def recordT2 : Record := ⟨0xFF, 0x01, ⟨0xDE, 0xAD, 0xBE, 0xEF⟩, ⟨0xF5, 0xEA⟩⟩

theorem test_ckRound_T2 :
    cs (ckRound recordT2 0 (ckInit (engineOf 1 2 3 4))) = [0x7F, 0x0C, 0xAA, 0xA9] ∧
    cs (ckRound recordT2 1 (engineOf 0x7F 0x0C 0xAA 0xA9)) = [0xDC, 0x83, 0x55, 0xF6] ∧
    cs (ckRound recordT2 2 (engineOf 0xDC 0x83 0x55 0xF6)) = [0xF5, 0xEA, 0x97, 0x01] := by
  decide +kernel
theorem test_ckSum_T2 : cs (ckSum recordT2 (engineOf 1 2 3 4)) = [0xF5, 0xEA, 0x97, 0x01] := by
  decide +kernel
theorem test_checksum_K1_K5 : checksumOf ⟨0, 0, ⟨0, 0, 0, 0⟩, ⟨0, 0⟩⟩ = ⟨0x00, 0xD8⟩ ∧
    checksumOf ⟨0xFF, 0xFF, ⟨0xFF, 0xFF, 0xFF, 0xFF⟩, ⟨0, 0⟩⟩ = ⟨0x7F, 0x0E⟩ := by decide +kernel

/-! ### Decoding: words written out from the `encoding` column -/

theorem test_decode_var7K0 : decodeTableWord 64 (
    0b00000000 * 2 ^ 56 + 0b00000000 * 2 ^ 48 + 0b00000000 * 2 ^ 40 + 0b00000000 * 2 ^ 32 +
    0b00000000 * 2 ^ 24 + 0b00000000 * 2 ^ 16 + 0b00000000 * 2 ^ 8 + 0b11011000) =
    some (.var7K0 0x00 ⟨0x00, 0x00, 0x00, 0x00⟩ ⟨0x00, 0xD8⟩) := by decide +kernel
theorem test_decode_var7K5 : decodeTableWord 64 (
    0b11111111 * 2 ^ 56 + 0b00100001 * 2 ^ 48 + 0b00000001 * 2 ^ 40 + 0b00000010 * 2 ^ 32 +
    0b00000011 * 2 ^ 24 + 0b00000100 * 2 ^ 16 + 0b00001011 * 2 ^ 8 + 0b01101100) =
    some (.var7K5 0xFF 0x21 ⟨0x01, 0x02, 0x03, 0x04⟩ ⟨0x0B, 0x6C⟩) := by decide +kernel
theorem test_decode_suba : decodeTableWord 64 (
    0b00000001 * 2 ^ 56 + 0b00011111 * 2 ^ 48 + 0b01111111 * 2 ^ 40 + 0b10100101 * 2 ^ 32 +
    0b10010100 * 2 ^ 24 + 0b00000000 * 2 ^ 16 + 0b10000000 * 2 ^ 8 + 0b10001100) =
    some (.suba 0x1F ⟨0x7F, 0xA5, 0x94, 0x00⟩ ⟨0x80, 0x8C⟩) := by decide +kernel
theorem test_decode_rsv2 : decodeTableWord 64 (
    0b00000010 * 2 ^ 56 + 0b00000001 * 2 ^ 48 + 0b00000001 * 2 ^ 40 + 0b00000010 * 2 ^ 32 +
    0b00000011 * 2 ^ 24 + 0b00000100 * 2 ^ 16 + 0b00101101 * 2 ^ 8 + 0b11000100) =
    some (.rsv2 0x01 ⟨0x01, 0x02, 0x03, 0x04⟩ ⟨0x2D, 0xC4⟩) := by decide +kernel
theorem test_decode_rsv3 : decodeTableWord 64 (
    0b00000011 * 2 ^ 56 + 0b00000101 * 2 ^ 48 + 0b00111100 * 2 ^ 8 + 0b10011100) =
    some (.rsv3 0x05 ⟨0x00, 0x00, 0x00, 0x00⟩ ⟨0x3C, 0x9C⟩) := by decide +kernel
theorem test_decode_rsv4 : decodeTableWord 64 (
    0b00000100 * 2 ^ 56 + 0b00000101 * 2 ^ 48 + 0b11010000 * 2 ^ 8 + 0b10011111) =
    some (.rsv4 0x05 ⟨0x00, 0x00, 0x00, 0x00⟩ ⟨0xD0, 0x9F⟩) := by decide +kernel
theorem test_decode_rsv5 : decodeTableWord 64 (
    0b00000101 * 2 ^ 56 + 0b00000101 * 2 ^ 48 + 0b01000100 * 2 ^ 8 + 0b10011100) =
    some (.rsv5 0x05 ⟨0x00, 0x00, 0x00, 0x00⟩ ⟨0x44, 0x9C⟩) := by decide +kernel
theorem test_decode_rsv6 : decodeTableWord 64 (
    0b00000110 * 2 ^ 56 + 0b00011110 * 2 ^ 48 + 0b00001001 * 2 ^ 40 + 0b00001001 * 2 ^ 32 +
    0b00001001 * 2 ^ 24 + 0b00001001 * 2 ^ 16 + 0b01000110 * 2 ^ 8 + 0b01111111) =
    some (.rsv6 0x1E ⟨0x09, 0x09, 0x09, 0x09⟩ ⟨0x46, 0x7F⟩) := by decide +kernel
theorem test_decode_var7M : decodeTableWord 64 (
    0b00000111 * 2 ^ 56 + 0b00000001 * 2 ^ 48 + 0b00010010 * 2 ^ 40 + 0b00110100 * 2 ^ 32 +
    0b01010110 * 2 ^ 24 + 0b01111000 * 2 ^ 16 + 0b11010110 * 2 ^ 8 + 0b00001111) =
    some (.var7M 0x01 ⟨0x12, 0x34, 0x56, 0x78⟩ ⟨0xD6, 0x0F⟩) := by decide +kernel
theorem test_decode_fixed : decodeTableWord 64 (
    0b11111111 * 2 ^ 56 + 0b00000001 * 2 ^ 48 + 0b11011110 * 2 ^ 40 + 0b10101101 * 2 ^ 32 +
    0b10111110 * 2 ^ 24 + 0b11101111 * 2 ^ 16 + 0b11110101 * 2 ^ 8 + 0b11101010) =
    some (.fixed 0x01 ⟨0xDE, 0xAD, 0xBE, 0xEF⟩ ⟨0xF5, 0xEA⟩) := by decide +kernel
theorem test_decode_invm : decodeTableWord 64 (
    0b00010000 * 2 ^ 56 + 0b00000001 * 2 ^ 48 + 0b00000001 * 2 ^ 40 + 0b00000010 * 2 ^ 32 +
    0b00000011 * 2 ^ 24 + 0b00000100 * 2 ^ 16 + 0b11000101 * 2 ^ 8 + 0b11000001) =
    some (.invm 0x10 0x01 ⟨0x01, 0x02, 0x03, 0x04⟩ ⟨0xC5, 0xC1⟩) := by decide +kernel

/-- V35 to V38: a wrong bit in either trailer byte or in the payload, or the trailer swapped. -/
theorem test_decode_bad_trailers : decodeTableWord 64 0xFF01000000008CE6 = none ∧
    decodeTableWord 64 0xFF01000000008DE7 = none ∧ decodeTableWord 64 0xFF01000000018CE7 = none ∧
    decodeTableWord 64 0xFF0100000000E78C = none := by decide +kernel

/-- A byte input that is too short is rejected by its own name (D10). -/
theorem test_decode_short : decodeBytes [0xFF, 0x01, 0, 0, 0, 0, 0x8C] = .error .shortInput := by decide

/-- V40: of ten bytes the first eight count. -/
theorem test_decode_long : decodeBytes [0xFF, 0x01, 0, 0, 0, 0, 0x8C, 0xE7, 0x12, 0x34] =
    .ok (.fixed 0x01 ⟨0, 0, 0, 0⟩ ⟨0x8C, 0xE7⟩) := by decide +kernel

/-! ### Well-formedness: an ill-formed term for each check -/

theorem test_wf_ok : (Instr.fixed 0x01 ⟨0xDE, 0xAD, 0xBE, 0xEF⟩ ⟨0xF5, 0xEA⟩).wellFormed = true := by
  decide +kernel
theorem test_wf_trailer :
    (Instr.fixed 0x01 ⟨0xDE, 0xAD, 0xBE, 0xEF⟩ ⟨0xF5, 0xEB⟩).wellFormed = false := by decide +kernel
/-- The trailer is right (V5) and bit 5 of the key is clear. -/
theorem test_wf_var7K5_bit5 : (Instr.var7K5 0x01 0x01 ⟨0, 0, 0, 0⟩ ⟨0x14, 0xCC⟩).wellFormed = false := by
  decide +kernel
/-- Trailers right (V8, section 3.2, V34, V14), keys that override. -/
theorem test_wf_override :
    (Instr.suba 0x20 ⟨0x7F, 0xA5, 0x94, 0x00⟩ ⟨0x83, 0x80⟩).wellFormed = false ∧
    (Instr.rsv2 0x21 ⟨0x0F, 0xF0, 0x5A, 0xA5⟩ ⟨0xD0, 0xCA⟩).wellFormed = false ∧
    (Instr.var7M 0x00 ⟨0x12, 0x34, 0x56, 0x78⟩ ⟨0x56, 0x18⟩).wellFormed = false ∧
    (Instr.fixed 0x20 ⟨1, 2, 3, 4⟩ ⟨0x8B, 0x7B⟩).wellFormed = false := by decide +kernel
theorem test_wf_override_reserved : (Instr.rsv3 0x20 ⟨0, 0, 0, 0⟩ ⟨0, 0⟩).rowHolds = false ∧
    (Instr.rsv4 0x00 ⟨0, 0, 0, 0⟩ ⟨0, 0⟩).rowHolds = false ∧
    (Instr.rsv5 0xFF ⟨0, 0, 0, 0⟩ ⟨0, 0⟩).rowHolds = false ∧
    (Instr.rsv6 0x60 ⟨0, 0, 0, 0⟩ ⟨0, 0⟩).rowHolds = false := by decide
/-- Trailers right (V33, V5), an overriding key and a known mode. -/
theorem test_wf_invm : (Instr.invm 0x10 0x00 ⟨0x12, 0x34, 0x56, 0x78⟩ ⟨0xFA, 0x1D⟩).wellFormed = false ∧
    (Instr.invm 0x01 0x01 ⟨0, 0, 0, 0⟩ ⟨0x14, 0xCC⟩).wellFormed = false := by decide +kernel

/-! ### One transaction (section 2.4), from `OUT = AA BB CC DD` -/

/-- V4: the last valid key. -/
theorem test_suba_V4 : result (step (presented 0x011F7FA59400808C)) =
    some (.ok, ⟨0xE8, 0x05, 0x36, 0x3F⟩) := by decide +kernel
/-- V6: an invalid key through mode 1. -/
theorem test_suba_V6 : result (step (presented 0x01407FA594008400)) =
    some (.invalidKey, ⟨0xAA, 0xBB, 0xCC, 0xDD⟩) := by decide +kernel
/-- V13: mode 255, but the zero key overrides. -/
theorem test_var7K0_V13 : result (step (presented 0xFF000102030409F8)) =
    some (.ok, ⟨0x10, 0x60, 0x50, 0x60⟩) := by decide +kernel
/-- V33: mode 16, but the zero key overrides. -/
theorem test_var7K0_V33 : result (step (presented 0x100012345678FA1D)) =
    some (.ok, ⟨0x21, 0x03, 0x05, 0xA7⟩) := by decide +kernel
/-- V8: key 32 reaches Cipher A by the override. -/
theorem test_var7K5_V8 : result (step (presented 0x01207FA594008380)) =
    some (.invalidKey, ⟨0xAA, 0xBB, 0xCC, 0xDD⟩) := by decide +kernel
/-- V32: a reserved mode, but key 0x21 overrides. -/
theorem test_var7K5_V32 : result (step (presented 0x022112345678108C)) =
    some (.ok, ⟨0xED, 0xCB, 0xA9, 0x87⟩) := by decide +kernel
/-- V10: mode 7, even key. -/
theorem test_var7M_V10 : result (step (presented 0x0702102030403C70)) =
    some (.ok, ⟨0x03, 0x40, 0x61, 0x26⟩) := by decide +kernel
/-- V18: mode 7, odd key of 32 or more, not range-checked. -/
theorem test_var7M_V18 : result (step (presented 0x07C1FF0FF0811160)) =
    some (.ok, ⟨0x00, 0xF0, 0x0F, 0x7E⟩) := by decide +kernel
/-- V3: key 64 is not range-checked by `FIXED`. -/
theorem test_fixed_V3 : result (step (presented 0xFF40DEADBEEFF0FE)) =
    some (.ok, ⟨0x00, 0x00, 0x01, 0x02⟩) := by decide +kernel
theorem test_rsv2_V22 : result (step (presented 0x0201010203042DC4)) =
    some (.unimplemented, ⟨0xAA, 0xBB, 0xCC, 0xDD⟩) := by decide +kernel
theorem test_rsv3_V23 : result (step (presented 0x0305000000003C9C)) =
    some (.unimplemented, ⟨0xAA, 0xBB, 0xCC, 0xDD⟩) := by decide +kernel
theorem test_rsv4_V24 : result (step (presented 0x040500000000D09F)) =
    some (.unimplemented, ⟨0xAA, 0xBB, 0xCC, 0xDD⟩) := by decide +kernel
theorem test_rsv5_V25 : result (step (presented 0x050500000000449C)) =
    some (.unimplemented, ⟨0xAA, 0xBB, 0xCC, 0xDD⟩) := by decide +kernel
/-- V26: mode 6 is inside the reserved range. -/
theorem test_rsv6_V26 : result (step (presented 0x061E09090909467F)) =
    some (.unimplemented, ⟨0xAA, 0xBB, 0xCC, 0xDD⟩) := by decide +kernel
/-- V31: the mode fails and the key 64 is never looked up. -/
theorem test_invm_V31 : result (step (presented 0x104000000000C5DD)) =
    some (.invalidMode, ⟨0xAA, 0xBB, 0xCC, 0xDD⟩) := by decide +kernel
/-- V30: the mode below 255. -/
theorem test_invm_V30 : result (step (presented 0xFE030000000098CF)) =
    some (.invalidMode, ⟨0xAA, 0xBB, 0xCC, 0xDD⟩) := by decide +kernel
/-- V39: the checksum failure comes before the others. -/
theorem test_checksum_first_V39 : result (step (presented 0x1040000000000000)) =
    some (.invalidChecksum, ⟨0xAA, 0xBB, 0xCC, 0xDD⟩) := by decide +kernel
/-- The first step from reset, with V2 presented. -/
theorem test_reset_then_V2 : result (step (State.reset.withFetchWord 64 0xFF01DEADBEEFF5EA)) =
    some (.ok, ⟨0x00, 0x00, 0x01, 0x02⟩) := by decide +kernel
/-- The host's side: a short input is refused by name, V40's ten bytes give V1's result. -/
theorem test_invoke_V40 :
    result (invoke [0xFF, 0x01, 0, 0, 0, 0, 0x8C, 0xE7, 0x12, 0x34] (presented 0)) =
    some (.ok, ⟨0x00, 0x00, 0x01, 0x02⟩) := by decide +kernel
/-- Program P1's stream of 27 bytes: three groups, the last three bytes dropped. -/
theorem test_groups_P1 : (groups [0xFF, 0x01, 0xDE, 0xAD, 0xBE, 0xEF, 0xF5, 0xEA,
    0x07, 0x01, 0x12, 0x34, 0x56, 0x78, 0xD6, 0x0F, 0x07, 0x01, 0x12, 0x34, 0x56, 0x79, 0xD6, 0x0F,
    0xAA, 0xBB, 0xCC]).map wordOfRecord =
    [0xFF01DEADBEEFF5EA#64, 0x070112345678D60F#64, 0x070112345679D60F#64] := by decide
/-- R15 (D6): the codes of the five outcomes. -/
theorem test_status_codes : [statusCode .ok, statusCode (failureStatus .invalidChecksum),
    statusCode (failureStatus .invalidKey), statusCode (failureStatus .invalidMode),
    statusCode (failureStatus .unimplemented)] = [0, 1, 2, 3, 4] := by decide

/-! ### Witnesses: the hypotheses of the statements can be met -/

theorem test_witness_StepRunsTheDecodedInstruction :
    decode (presented 0xFF01DEADBEEFF5EA).record =
      .ok (.fixed 0x01 ⟨0xDE, 0xAD, 0xBE, 0xEF⟩ ⟨0xF5, 0xEA⟩) := by decide +kernel

/-- V36 (first byte wrong), V35 (second byte wrong). -/
theorem test_witness_StepRejectsExactlyAWrongTrailer_wrong :
    (ckSum (presented 0xFF01000000008DE7).record (presented 0xFF01000000008DE7).engine).cs0 ≠
      (presented 0xFF01000000008DE7).record.trailer.ck0 ∧
    (ckSum (presented 0xFF01000000008CE6).record (presented 0xFF01000000008CE6).engine).cs1 ≠
      (presented 0xFF01000000008CE6).record.trailer.ck1 := by decide +kernel
/-- V1. -/
theorem test_witness_StepRejectsExactlyAWrongTrailer_right :
    let s := presented 0xFF01000000008CE7
    (ckSum s.record s.engine).cs0 = s.record.trailer.ck0 ∧
    (ckSum s.record s.engine).cs1 = s.record.trailer.ck1 ∧ ∃ t, step s = .next t := by
  refine ⟨by decide +kernel, by decide +kernel, ?_⟩
  obtain ⟨t, h, _⟩ := next_of_result
    (o := step (presented 0xFF01000000008CE7)) (st := .ok) (b := ⟨0, 0, 1, 2⟩) (by decide +kernel)
  exact ⟨t, h⟩

theorem test_witness_EveryStepKeepsTheInvariant :
    Invariant fixture (presented 0x011F7FA59400808C) ∧
    ∃ t, step (presented 0x011F7FA59400808C) = .next t := by
  refine ⟨⟨rfl, by decide, by decide⟩, ?_⟩
  obtain ⟨t, h, _⟩ := next_of_result test_suba_V4
  exact ⟨t, h⟩

theorem test_witness_OneOrTwoFlippedBitsAreDetected : (0 : Fin 48) ≠ 47 := by decide

theorem test_witness_DecodeChecksTheTrailerFirst :
    (recordOfWord 0xFF01000000008DE7#64).trailer.ck0 ≠
      (checksumOf (recordOfWord 0xFF01000000008DE7#64)).ck0 ∧
    (recordOfWord 0xFF01000000008CE6#64).trailer.ck1 ≠
      (checksumOf (recordOfWord 0xFF01000000008CE6#64)).ck1 ∧
    (recordOfWord 0xFF01000000008CE7#64).trailer = checksumOf (recordOfWord 0xFF01000000008CE7#64) ∧
    decode (presented 0xFF01000000008CE6).record = .error .invalidChecksum := by decide +kernel

/-- The first and the last keys with bit 5 set. -/
theorem test_witness_ZeroOrBitFiveKeySelectsVariant7 :
    (0x20#8).getLsbD 5 = true ∧ (0xFF#8).getLsbD 5 = true ∧ keyOverride 0x1F#8 = false ∧
    keyOverride 0x40#8 = false := by decide

/-- The four bounds of the keys that do not override, and the bounds of the unknown modes. -/
theorem test_witness_ModeByteSelectsTheOperation :
    ¬ overrides 0x01#8 ∧ ¬ overrides 0x1F#8 ∧ ¬ overrides 0x40#8 ∧ ¬ overrides 0xDF#8 ∧
    modeUnknown 0x00#8 ∧ modeUnknown 0x08#8 ∧ modeUnknown 0xFE#8 ∧ ¬ modeUnknown 0x07#8 ∧
    ¬ modeUnknown 0xFF#8 := by
  unfold overrides modeUnknown
  decide

/-- A well-formed instruction of every constructor (V16, V15, V4, V22 to V26, V9, V2, V27). -/
theorem test_witness_DecodingAnEncodedInstructionGivesItBack :
    ([.var7K0 0x00 ⟨0, 0, 0, 0⟩ ⟨0x00, 0xD8⟩, .var7K5 0xFF 0x21 ⟨1, 2, 3, 4⟩ ⟨0x0B, 0x6C⟩,
      .suba 0x1F ⟨0x7F, 0xA5, 0x94, 0x00⟩ ⟨0x80, 0x8C⟩, .rsv2 0x01 ⟨1, 2, 3, 4⟩ ⟨0x2D, 0xC4⟩,
      .rsv3 0x05 ⟨0, 0, 0, 0⟩ ⟨0x3C, 0x9C⟩, .rsv4 0x05 ⟨0, 0, 0, 0⟩ ⟨0xD0, 0x9F⟩,
      .rsv5 0x05 ⟨0, 0, 0, 0⟩ ⟨0x44, 0x9C⟩, .rsv6 0x1E ⟨9, 9, 9, 9⟩ ⟨0x46, 0x7F⟩,
      .var7M 0x01 ⟨0x12, 0x34, 0x56, 0x78⟩ ⟨0xD6, 0x0F⟩,
      .fixed 0x01 ⟨0xDE, 0xAD, 0xBE, 0xEF⟩ ⟨0xF5, 0xEA⟩,
      .invm 0x10 0x01 ⟨1, 2, 3, 4⟩ ⟨0xC5, 0xC1⟩] : List Instr).all Instr.wellFormed = true := by
  decide +kernel

theorem test_witness_EncodingADecodedRecordGivesItBack :
    decode (recordOfWord 0x100101020304C5C1#64) =
      .ok (.invm 0x10 0x01 ⟨1, 2, 3, 4⟩ ⟨0xC5, 0xC1⟩) := by decide +kernel

theorem test_witness_OnlyTheFirstEightBytesCount :
    ([] : List Byte).length < 8 ∧ ([1, 2, 3, 4, 5, 6, 7] : List Byte).length < 8 := by decide

/-- The last valid and the first invalid index, and the extremes. -/
theorem test_witness_SboxLookupNeedsAKeyBelow32 :
    (0x00#8).toNat < 32 ∧ (0x1F#8).toNat < 32 ∧ 32 ≤ (0x20#8).toNat ∧ 32 ≤ (0xFF#8).toNat := by decide

/-- The first and the last index of the bits that move up. -/
theorem test_witness_RotatorShiftsThroughTheCarry : (0 : Nat) < 7 ∧ (6 : Nat) < 7 := by decide

/-- The keys about the bound, and a key below and one above it that mode 1 can reach. -/
theorem test_witness_SubstitutionAWritesOrRaisesInvalidKey :
    (0x1F#8).toNat < 32 ∧ 32 ≤ (0x20#8).toNat ∧
    (∃ t, exec (.suba 0x1F ⟨1, 2, 3, 4⟩ ⟨0, 0⟩) (presented 0) = .next t ∧ t.status = .ok) ∧
    ∃ t, exec (.suba 0x40 ⟨1, 2, 3, 4⟩ ⟨0, 0⟩) (presented 0) = .next t ∧ t.status = .invalidKey :=
  ⟨by decide, by decide, ⟨_, rfl, rfl⟩, ⟨_, rfl, rfl⟩⟩

theorem test_witness_Variant7ComplementsOrDelegates :
    (0xFE#8).getLsbD 0 = false ∧ (0x00#8).getLsbD 0 = false ∧ (0x01#8).getLsbD 0 = true ∧
    (0xFF#8).getLsbD 0 = true := by decide

/-- A storing operation and one that stores nothing both give a next state. -/
theorem test_witness_FrameOfEveryOperation :
    (∃ t, exec (.suba 0x1F ⟨1, 2, 3, 4⟩ ⟨0, 0⟩) (presented 0) = .next t) ∧
    (∃ t, exec (.rsv2 0x01 ⟨1, 2, 3, 4⟩ ⟨0, 0⟩) (presented 0) = .next t) ∧
    mnemonic (.rsv2 0x01 ⟨1, 2, 3, 4⟩ ⟨0, 0⟩) ∈ ["RSV2", "RSV3", "RSV4", "RSV5", "RSV6", "INVM"] ∧
    ∀ j, Loc.record 0 ≠ .out j :=
  ⟨⟨_, rfl⟩, ⟨_, rfl⟩, by decide, by decide⟩

theorem test_witness_TransactionWritesOnlyTheOutputBuffer :
    ∃ t, step (presented 0x011F7FA59400808C) = .next t ∧ ∀ j, Loc.sbox 3 31 ≠ .out j := by
  obtain ⟨t, h, _⟩ := next_of_result test_suba_V4
  exact ⟨t, h, by decide⟩

theorem test_witness_FailureLeavesEveryByteAlone :
    ∃ t, step (presented 0x01407FA594008400) = .next t ∧ t.status ≠ .ok := by
  obtain ⟨t, h, hs, _⟩ := next_of_result test_suba_V6
  exact ⟨t, h, by rw [hs]; decide⟩

/-- Two states that differ in the buffer, the status and the engine. -/
theorem test_witness_ResultDependsOnRecordAndTablesOnly :
    let s := presented 0x011F7FA59400808C
    let s' : State := ⟨s.record, ⟨1, 2, 3, 4⟩, .ok, ⟨0, 0, 0, 0, false, 0, 0, 0⟩, s.sbox⟩
    s.record = s'.record ∧ s.sbox = s'.sbox ∧ (∃ t, step s = .next t ∧ t.status = .ok) ∧
      ∃ t, step s' = .next t := by
  refine ⟨rfl, rfl, ?_, ?_⟩
  · obtain ⟨t, h, hs, _⟩ := next_of_result test_suba_V4
    exact ⟨t, h, hs⟩
  · obtain ⟨t, h, _⟩ := next_of_result
      (o := step ⟨recordOfWord 0x011F7FA59400808C#64, ⟨1, 2, 3, 4⟩, .ok,
        ⟨0, 0, 0, 0, false, 0, 0, 0⟩, fixture⟩)
      (st := .ok) (b := ⟨0xE8, 0x05, 0x36, 0x3F⟩) (by decide +kernel)
    exact ⟨t, h⟩

/-- The three paths to `InvalidKey`: mode 1 (V6), mode 7 with an even key (V19), the override (V8). -/
theorem test_witness_InvalidKeyOnlyWhereCipherAIsReached :
    (∃ t, step (presented 0x01407FA594008400) = .next t ∧ t.status = .invalidKey) ∧
    (∃ t, step (presented 0x07C0FF0FF0819177) = .next t ∧ t.status = .invalidKey) ∧
    (∃ t, step (presented 0x01207FA594008380) = .next t ∧ t.status = .invalidKey) := by
  refine ⟨?_, ?_, ?_⟩
  · obtain ⟨t, h, hs, _⟩ := next_of_result test_suba_V6
    exact ⟨t, h, hs⟩
  · obtain ⟨t, h, hs, _⟩ := next_of_result (o := step (presented 0x07C0FF0FF0819177))
      (st := .invalidKey) (b := ⟨0xAA, 0xBB, 0xCC, 0xDD⟩) (by decide +kernel)
    exact ⟨t, h, hs⟩
  · obtain ⟨t, h, hs, _⟩ := next_of_result test_var7K5_V8
    exact ⟨t, h, hs⟩

/-- The other three failures: V39, V30, V26. -/
theorem test_witness_OtherFailuresHaveTheirCauses :
    (∃ t, step (presented 0x1040000000000000) = .next t ∧ t.status = .invalidChecksum) ∧
    (∃ t, step (presented 0xFE030000000098CF) = .next t ∧ t.status = .invalidMode) ∧
    (∃ t, step (presented 0x061E09090909467F) = .next t ∧ t.status = .unimplemented) := by
  refine ⟨?_, ?_, ?_⟩
  · obtain ⟨t, h, hs, _⟩ := next_of_result test_checksum_first_V39
    exact ⟨t, h, hs⟩
  · obtain ⟨t, h, hs, _⟩ := next_of_result test_invm_V30
    exact ⟨t, h, hs⟩
  · obtain ⟨t, h, hs, _⟩ := next_of_result test_rsv6_V26
    exact ⟨t, h, hs⟩

theorem test_witness_CipherOutputsCanBeInverted :
    (0x1F#8).toNat < 32 ∧ (∃ t, exec (.suba 0x1F#8 ⟨1, 2, 3, 4⟩ ⟨0, 0⟩) (presented 0) = .next t) ∧
    (0x01#8).getLsbD 0 = true ∧
    ∃ t, exec (.var7M 0x01#8 ⟨1, 2, 3, 4⟩ ⟨0, 0⟩) (presented 0) = .next t :=
  ⟨by decide, ⟨_, rfl⟩, by decide, ⟨_, rfl⟩⟩

/-- Two payloads that agree in byte 2 only. -/
theorem test_witness_OutputBytesDoNotMix :
    let i : Instr := .var7M 0x01#8 ⟨1, 2, 3, 4⟩ ⟨0, 0⟩
    let i' : Instr := withOperands 0x07 ⟨5, 6, 3, 7⟩ ⟨0, 0⟩ i
    (presented 0).sbox = (presented 1).sbox ∧
    (∃ t, exec i (presented 0) = .next t ∧ t.status = .ok) ∧ (∃ t, exec i' (presented 1) = .next t) ∧
    payloadByte (encode i) 2 = payloadByte (encode i') 2 :=
  ⟨rfl, ⟨_, rfl, rfl⟩, ⟨_, rfl⟩, rfl⟩

theorem test_witness_GroupsCutTheStream :
    0 < (groups [0xFF, 0x01, 0, 0, 0, 0, 0x8C, 0xE7, 0x12]).length := by decide

theorem test_witness_StreamResultsAreIndependent :
    (presented 0).sbox = (presented 1).sbox ∧ 0 < [recordT2].length := ⟨rfl, by decide⟩

end Sys2Proof.Tests
end

section
/-!
PROOFS of the family `10_state`: what a transaction changes in the state and what it depends on.

The checksum engine comes first: the work it does and what it ignores. Then each operation and each
transaction is written as a result, computed from the tables and the instruction or the record
alone, and its delivery into the state (`exec_eq_deliver`, `step_eq_deliver`). The obligations follow
from the frame of a delivery.
-/

namespace Sys2Proof.Machine

/-! ### The checksum engine: its counters, the trailer, the leftovers (R13, R17, R20) -/

@[simp] theorem ckRound_round (rc : Record) (r : Fin 3) (e : Engine) :
    (ckRound rc r e).round = e.round + 1 :=
  congrArg (· + 1) (ckIters_counters 16 _).1

@[simp] theorem ckRound_iter (rc : Record) (r : Fin 3) (e : Engine) :
    (ckRound rc r e).iter = 16 :=
  (ckIters_counters 16 _).2

@[simp] theorem ckSum_round (rc : Record) (e : Engine) : (ckSum rc e).round = 3 := by
  simp [ckSum, startRounds]

@[simp] theorem ckSum_iter (rc : Record) (e : Engine) : (ckSum rc e).iter = 16 :=
  ckRound_iter rc 2 _

/-- The three chunks lie before the trailer (R51, R54). -/
theorem chunk_setTrailer (rc : Record) (ck : Trailer) (r : Fin 3) :
    chunk { rc with trailer := ck } r = chunk rc r := by
  fin_cases r <;> rfl

/-- The engine reads its record through `chunk` only. -/
theorem ckRound_setTrailer (rc : Record) (ck : Trailer) (r : Fin 3) (e : Engine) :
    ckRound { rc with trailer := ck } r e = ckRound rc r e := by
  simp only [ckRound, ckLoad, chunk_setTrailer]

theorem ckSum_setTrailer (rc : Record) (ck : Trailer) (e : Engine) :
    ckSum { rc with trailer := ck } e = ckSum rc e := by
  simp only [ckSum, ckRound_setTrailer]

/-- The first inner iteration of a transaction reads nothing an earlier one left: `CS` and the
counters have just been set, and steps a and b of R73 write `temp` and the carry before any step
reads them. -/
theorem ckIter_first_leftovers (rc : Record) (e e' : Engine) :
    ckIter (ckLoad rc 0 (startIters (startRounds (ckInit e)))) =
      ckIter (ckLoad rc 0 (startIters (startRounds (ckInit e')))) := rfl

theorem ckSum_leftovers (rc : Record) (e e' : Engine) : ckSum rc e = ckSum rc e' := by
  have hfirst : ckRound rc 0 (startRounds (ckInit e)) = ckRound rc 0 (startRounds (ckInit e')) :=
    congrArg (fun x => countRound (ckIters 15 (countIter x))) (ckIter_first_leftovers rc e e')
  simp only [ckSum, hfirst]

theorem ckMatches_iff (rc : Record) (e : Engine) :
    ckMatches rc e = true ↔ (⟨e.cs0, e.cs1⟩ : Trailer) = rc.trailer := by
  obtain ⟨mode, key, p, ⟨ck0, ck1⟩⟩ := rc
  simp [ckMatches]

/-- The verdict on the trailer is that of the record's own checksum, whatever the engine held
before (R13, R76). -/
theorem trailerMatches_runChecksum (s : State) :
    trailerMatches (runChecksum s) = true ↔ checksumOf s.record = s.record.trailer := by
  rw [trailerMatches, fetchRecord, ckMatches_iff, runChecksum_record, runChecksum_engine,
    ckSum_leftovers s.record s.engine ⟨0, 0, 0, 0, false, 0, 0, 0⟩, checksumOf]

/-! ### Delivering a result into the state -/

/-- End a transaction with a result: the four output bytes, or a failure (R90 step 4, R126). -/
def deliver (r : Except Failure Output) (s : State) : State :=
  match r with
  | .ok o    => succeed o s
  | .error f => raiseFailure f s

@[simp] theorem deliver_ok (o : Output) (s : State) : deliver (.ok o) s = succeed o s := rfl
@[simp] theorem deliver_error (f : Failure) (s : State) :
    deliver (.error f) s = raiseFailure f s := rfl

@[simp] theorem deliver_record (r : Except Failure Output) (s : State) :
    (deliver r s).record = s.record := by
  cases r <;> rfl
@[simp] theorem deliver_engine (r : Except Failure Output) (s : State) :
    (deliver r s).engine = s.engine := by
  cases r <;> rfl
@[simp] theorem deliver_sbox (r : Except Failure Output) (s : State) :
    (deliver r s).sbox = s.sbox := by
  cases r <;> rfl

/-- A delivery changes bytes of `OUT` only. -/
theorem memRead_deliver (r : Except Failure Output) (s : State) (a : Loc) (h : ∀ j, a ≠ .out j) :
    memRead (deliver r s) a = memRead s a := by
  cases r with
  | ok o => exact memRead_succeed o s a h
  | error f => exact memRead_raiseFailure f s a

/-- The status delivered is that of the result, whatever the state. -/
theorem deliver_status_congr (r : Except Failure Output) (s s' : State) :
    (deliver r s).status = (deliver r s').status := by
  cases r <;> rfl

/-- After `Ok` the buffer is the result's. -/
theorem deliver_out_of_status_ok (r : Except Failure Output) (s s' : State)
    (h : (deliver r s).status = .ok) : (deliver r s).out = (deliver r s').out := by
  cases r with
  | ok o => rfl
  | error f => exact absurd h (failureStatus_ne_ok f)

/-- After a failure the buffer is the old one, so equal old buffers stay equal in every case. -/
theorem deliver_out_congr (r : Except Failure Output) (s s' : State) (h : s.out = s'.out) :
    (deliver r s).out = (deliver r s').out := by
  cases r with
  | ok o => rfl
  | error f => exact h

/-! ### The result of an operation and of a transaction -/

/-- The result of Variant 7 (R103). -/
def variant7Output (T : Tables) (key : Byte) (p : Payload) : Except Failure Output :=
  if key.getLsbD 0 then .ok (complementOutput p) else subaOutput T key p

/-- The result of an operation, from the tables and its operands alone (R19, R94). -/
def operationResult (T : Tables) : Instr → Except Failure Output
  | .var7K0 _ p _     => variant7Output T 0x00#8 p
  | .var7K5 _ key p _ => variant7Output T key p
  | .suba key p _     => subaOutput T key p
  | .rsv2 _ _ _       => .error .unimplemented
  | .rsv3 _ _ _       => .error .unimplemented
  | .rsv4 _ _ _       => .error .unimplemented
  | .rsv5 _ _ _       => .error .unimplemented
  | .rsv6 _ _ _       => .error .unimplemented
  | .var7M key p _    => variant7Output T key p
  | .fixed _ _ _      => .ok ⟨0x00#8, 0x00#8, 0x01#8, 0x02#8⟩
  | .invm _ _ _ _     => .error .invalidMode

/-- The result of a transaction, from the tables and the record alone (R19, R56, R90). -/
def transactionResult (T : Tables) (rc : Record) : Except Failure Output :=
  if checksumOf rc = rc.trailer then operationResult T (select rc) else .error .invalidChecksum

theorem substitutionA_eq_deliver (key : Byte) (p : Payload) (s : State) :
    substitutionA key p s = deliver (subaOutput s.sbox key p) s := by
  unfold substitutionA
  cases subaOutput s.sbox key p <;> rfl

theorem variant7_eq_deliver (key : Byte) (p : Payload) (s : State) :
    variant7 key p s = deliver (variant7Output s.sbox key p) s := by
  rcases variant7_cases key p s with ⟨hodd, h⟩ | ⟨heven, h⟩
  · rw [h, variant7Output, if_pos hodd, deliver_ok]
  · rw [h, variant7Output, heven, if_neg Bool.false_ne_true, substitutionA_eq_deliver]

/-- Every operation delivers its result and does nothing else. -/
theorem exec_eq_deliver (i : Instr) (s : State) :
    exec i s = .next (deliver (operationResult s.sbox i) s) := by
  cases i with
  | var7K0 mode p ck => exact congrArg Host.Outcome.next (variant7_eq_deliver _ p s)
  | var7K5 mode key p ck => exact congrArg Host.Outcome.next (variant7_eq_deliver key p s)
  | suba key p ck => exact congrArg Host.Outcome.next (substitutionA_eq_deliver key p s)
  | var7M key p ck => exact congrArg Host.Outcome.next (variant7_eq_deliver key p s)
  | rsv2 | rsv3 | rsv4 | rsv5 | rsv6 | fixed | invm => rfl

/-- Every transaction runs the checksum engine and delivers its result, and does nothing else. -/
theorem step_eq_deliver (s : State) :
    step s = .next (deliver (transactionResult s.sbox s.record) (runChecksum s)) := by
  rcases step_cases s with ⟨hbad, h⟩ | ⟨hgood, h⟩
  · have hne : checksumOf s.record ≠ s.record.trailer := fun heq => by
      simp [(trailerMatches_runChecksum s).mpr heq] at hbad
    simp [h, transactionResult, hne]
  · have heq := (trailerMatches_runChecksum s).mp hgood
    simp [h, transactionResult, heq, exec_eq_deliver]

/-- The next state of an operation. -/
theorem eq_deliver_of_exec {i : Instr} {s t : State} (h : exec i s = .next t) :
    t = deliver (operationResult s.sbox i) s :=
  (Host.Outcome.next.inj ((exec_eq_deliver i s).symm.trans h)).symm

/-- The next state of a transaction. -/
theorem eq_deliver_of_step {s t : State} (h : step s = .next t) :
    t = deliver (transactionResult s.sbox s.record) (runChecksum s) :=
  (Host.Outcome.next.inj ((step_eq_deliver s).symm.trans h)).symm

/-- The rows of the reserved and the unknown modes have a failure as their result (R105 to R110). -/
theorem operationResult_of_failing_row (T : Tables) (i : Instr)
    (h : Claims.mnemonic i ∈ ["RSV2", "RSV3", "RSV4", "RSV5", "RSV6", "INVM"]) :
    ∃ f, operationResult T i = .error f := by
  cases i with
  | rsv2 | rsv3 | rsv4 | rsv5 | rsv6 | invm => exact ⟨_, rfl⟩
  | var7K0 | var7K5 | suba | var7M | fixed => simp [Claims.mnemonic] at h

end Sys2Proof.Machine

namespace Sys2Proof.Proofs

open Sys2Proof.Machine

/-- Settles O4: a transaction delivers into the state that the checksum engine left, whose counters
stand at the ends of their loops; the counters before the step do not matter. -/
theorem everyStepKeepsTheInvariant : Obligations.EveryStepKeepsTheInvariant := by
  intro T s t hinv hstep
  obtain rfl := eq_deliver_of_step hstep
  exact ⟨by simp [hinv.tables_fixed], by simp, by simp⟩

/-- Settles O16. -/
theorem checksumWorkIsFixed : Obligations.ChecksumWorkIsFixed := fun rc e =>
  ⟨ckSum_round rc e, ckSum_iter rc e⟩

/-- Settles O31, from the frame of a delivery; a failing row delivers a failure. -/
theorem frameOfEveryOperation : Obligations.FrameOfEveryOperation := by
  intro i s t hexec
  obtain rfl := eq_deliver_of_exec hexec
  refine ⟨deliver_record _ s, deliver_sbox _ s, deliver_engine _ s, memRead_deliver _ s, ?_⟩
  intro hrow a
  obtain ⟨f, hf⟩ := operationResult_of_failing_row s.sbox i hrow
  rw [hf]
  exact memRead_raiseFailure f s a

/-- Settles O32: running the checksum engine stores no byte, and a delivery stores to `OUT` only. -/
theorem transactionWritesOnlyTheOutputBuffer :
    Obligations.TransactionWritesOnlyTheOutputBuffer := by
  intro s t hstep
  obtain rfl := eq_deliver_of_step hstep
  exact ⟨deliver_record _ _, deliver_sbox _ _, fun a ha =>
    (memRead_deliver _ _ a ha).trans (memRead_runChecksum s a)⟩

/-- Settles O36: both transactions deliver the same result, since it is computed from the record and
the tables alone. -/
theorem resultDependsOnRecordAndTablesOnly : Obligations.ResultDependsOnRecordAndTablesOnly := by
  intro s s' t t' hrecord hsbox hstep hstep'
  obtain rfl := eq_deliver_of_step hstep
  obtain rfl := eq_deliver_of_step hstep'
  rw [← hrecord, ← hsbox]
  exact ⟨deliver_record _ _, deliver_sbox _ _, deliver_status_congr _ _ _,
    deliver_out_of_status_ok _ _ _, deliver_out_congr _ (runChecksum s) (runChecksum s')⟩

/-- Settles O3. -/
theorem resetMeetsTheInvariant : Obligations.ResetMeetsTheInvariant :=
  ⟨rfl, Nat.zero_le 3, Nat.zero_le 16⟩

/-- Settles O15: the leftovers go first, then the trailer is exchanged. -/
theorem checksumIgnoresTrailerAndLeftovers : Obligations.ChecksumIgnoresTrailerAndLeftovers := by
  intro mode key p ck ck' e e'
  calc ckSum ⟨mode, key, p, ck⟩ e = ckSum ⟨mode, key, p, ck⟩ e' := ckSum_leftovers _ e e'
    _ = ckSum ⟨mode, key, p, ck'⟩ e' := (ckSum_setTrailer ⟨mode, key, p, ck⟩ ck' e').symm

end Sys2Proof.Proofs
end

section
/-!
PROOFS of the family `30_encoding`: how the bytes of a record select an operation.

The bytes and the 64-bit number of a record come first. Then the selection as one equivalence: a
record selects an operation exactly when it is that operation's record and the row's condition holds
(`select_eq_iff`), and with the trailer beside it, a record decodes to exactly the well-formed
instruction whose record it is (`decode_eq_ok_iff_wellFormed`). The table and the outcome map are
then case splits over the rows.
-/

namespace Sys2Proof.Encoding

open Sys2Proof.Machine Sys2Proof.Claims

/-! ### The bytes and the number of a record (R51, R52) -/

/-- `REC[i]` is the byte of the number that starts at bit `8 * (7 - i)` (R52). -/
theorem recordByte_recordOfWord (w : BitVec 64) (i : Fin 8) :
    recordByte (recordOfWord w) i = w.extractLsb' (8 * (7 - i.val)) 8 := by
  fin_cases i <;> rfl

theorem getLsbD_wordOfRecord (rc : Record) (i : Fin 8) (j : Nat) (hj : j < 8) :
    (wordOfRecord rc).getLsbD (8 * (7 - i.val) + j) = (recordByte rc i).getLsbD j := by
  unfold wordOfRecord
  simp only [BitVec.getLsbD_append]
  fin_cases i <;> interval_cases j <;> rfl

theorem recordOfWord_wordOfRecord (rc : Record) : recordOfWord (wordOfRecord rc) = rc := by
  refine record_ext _ _ fun i => BitVec.eq_of_getLsbD_eq fun j hj => ?_
  rw [recordByte_recordOfWord, BitVec.getLsbD_extractLsb', getLsbD_wordOfRecord rc i j hj,
    decide_eq_true hj, Bool.true_and]

theorem wordOfRecord_recordOfWord (w : BitVec 64) : wordOfRecord (recordOfWord w) = w := by
  refine BitVec.eq_of_getLsbD_eq fun n hn => ?_
  have hplace : n = 8 * (7 - (7 - n / 8)) + n % 8 := by omega
  have hbit : n % 8 < 8 := by omega
  have h := getLsbD_wordOfRecord (recordOfWord w) ⟨7 - n / 8, by omega⟩ (n % 8) hbit
  rwa [recordByte_recordOfWord, BitVec.getLsbD_extractLsb', decide_eq_true hbit, Bool.true_and,
    ← hplace] at h

/-- A record's bytes are read back as the record. -/
theorem decodeBytes_bytesOfRecord (rc : Record) : decodeBytes (bytesOfRecord rc) = decode rc := rfl

/-! ### The conditions on the key and the mode (R57, R58) -/

theorem keyOverride_iff (key : Byte) :
    keyOverride key = true ↔ key = 0x00#8 ∨ key.getLsbD 5 = true := by
  simp [keyOverride]

/-- The row condition of every row that the mode byte selects. -/
theorem not_keyOverride_iff (key : Byte) :
    (!keyOverride key) = true ↔ key ≠ 0x00#8 ∧ ¬ key.getLsbD 5 = true := by
  simp [keyOverride]

theorem getLsbD_five_iff (key : Byte) : key.getLsbD 5 = true ↔ key.toNat / 32 % 2 = 1 := by
  rw [← BitVec.testBit_toNat, Nat.testBit_eq_decide_div_mod_eq, decide_eq_true_iff]

theorem ne_zero_of_bit_five {key : Byte} (h : key.getLsbD 5 = true) : key ≠ 0x00#8 := by
  rintro rfl
  exact absurd h (by decide)

/-- A key with bit 5 set is out of the tables' range. -/
theorem le_toNat_of_bit_five {key : Byte} (h : key.getLsbD 5 = true) : 32 ≤ key.toNat := by
  have := (getLsbD_five_iff key).mp h
  omega

/-- The mode bytes left over for `INVM`. -/
theorem not_modeKnown_iff (mode : Byte) :
    (!modeKnown mode) = true ↔
      mode ≠ 0x01#8 ∧ mode ≠ 0x02#8 ∧ mode ≠ 0x03#8 ∧ mode ≠ 0x04#8 ∧ mode ≠ 0x05#8 ∧
        mode ≠ 0x06#8 ∧ mode ≠ 0x07#8 ∧ mode ≠ 0xFF#8 := by
  simp [modeKnown, and_assoc]

/-! ### The selection (R57, R58, R60, R62) -/

theorem encode_keyDispatch (rc : Record) : encode (keyDispatch rc) = rc := by
  obtain ⟨mode, key, p, ck⟩ := rc
  simp only [keyDispatch]
  split_ifs with hzero
  · rw [hzero, encode]
  · rw [encode]

theorem encode_modeDispatch (rc : Record) : encode (modeDispatch rc) = rc := by
  obtain ⟨mode, key, p, ck⟩ := rc
  simp only [modeDispatch]
  split_ifs <;> simp only [encode, *]

/-- The record of the selected operation is the record that selected it. -/
theorem encode_select (rc : Record) : encode (select rc) = rc := by
  unfold select
  split_ifs
  · exact encode_keyDispatch rc
  · exact encode_modeDispatch rc

theorem rowHolds_keyDispatch (rc : Record) (h : keyOverride rc.key = true) :
    (keyDispatch rc).rowHolds = true := by
  unfold keyDispatch
  split_ifs with hzero
  · rfl
  · exact ((keyOverride_iff _).mp h).resolve_left hzero

theorem rowHolds_modeDispatch (rc : Record) (h : ¬ keyOverride rc.key = true) :
    (modeDispatch rc).rowHolds = true := by
  unfold modeDispatch
  split_ifs <;> simp [Instr.rowHolds, modeKnown, *]

theorem rowHolds_select (rc : Record) : (select rc).rowHolds = true := by
  unfold select
  split_ifs with h
  · exact rowHolds_keyDispatch rc h
  · exact rowHolds_modeDispatch rc h

theorem select_of_not_keyOverride {rc : Record} (h : (!keyOverride rc.key) = true) :
    select rc = modeDispatch rc :=
  if_neg (by simpa using h)

theorem select_encode (i : Instr) (h : i.rowHolds = true) : select (encode i) = i := by
  cases i with
  | var7K0 mode p ck => rfl
  | var7K5 mode key p ck =>
    have hbit : key.getLsbD 5 = true := h
    exact (if_pos ((keyOverride_iff key).mpr (.inr hbit))).trans (if_neg (ne_zero_of_bit_five hbit))
  | suba | rsv2 | rsv3 | rsv4 | rsv5 | rsv6 | var7M | fixed => exact select_of_not_keyOverride h
  | invm mode key p ck =>
    obtain ⟨hkey, hmode⟩ := Bool.and_eq_true_iff.mp h
    refine (select_of_not_keyOverride hkey).trans ?_
    obtain ⟨h1, h2, h3, h4, h5, h6, h7, hFF⟩ := (not_modeKnown_iff mode).mp hmode
    simp only [encode, modeDispatch, if_false, *]

/-- The selection: a record selects an operation exactly when it is the operation's record and the
row's condition holds. -/
theorem select_eq_iff (rc : Record) (i : Instr) :
    select rc = i ↔ encode i = rc ∧ i.rowHolds = true := by
  constructor
  · rintro rfl
    exact ⟨encode_select rc, rowHolds_select rc⟩
  · rintro ⟨rfl, hrow⟩
    exact select_encode i hrow

/-! ### Decoding (R56) -/

theorem decode_eq_ok_iff (rc : Record) (i : Instr) :
    decode rc = .ok i ↔ checksumOf rc = rc.trailer ∧ select rc = i := by
  unfold decode
  split_ifs with h <;> simp [h]

theorem decode_eq_error_iff (rc : Record) :
    decode rc = .error .invalidChecksum ↔ checksumOf rc ≠ rc.trailer := by
  unfold decode
  split_ifs with h <;> simp [h]

theorem wellFormed_iff (i : Instr) :
    i.wellFormed = true ↔ i.rowHolds = true ∧ checksumOf (encode i) = (encode i).trailer := by
  simp [Instr.wellFormed, Instr.trailerHolds]

/-- A record decodes to exactly the well-formed instruction whose record it is. -/
theorem decode_eq_ok_iff_wellFormed (rc : Record) (i : Instr) :
    decode rc = .ok i ↔ encode i = rc ∧ i.wellFormed = true := by
  rw [decode_eq_ok_iff, select_eq_iff, wellFormed_iff]
  constructor
  · rintro ⟨hck, rfl, hrow⟩
    exact ⟨rfl, hrow, hck⟩
  · rintro ⟨rfl, hrow, hck⟩
    exact ⟨hck, rfl, hrow⟩

/-- The two comparisons of `CKVERIFY` (R76). -/
theorem checksumOf_eq_trailer_iff (rc : Record) :
    checksumOf rc = rc.trailer ↔
      rc.trailer.ck0 = (checksumOf rc).ck0 ∧ rc.trailer.ck1 = (checksumOf rc).ck1 := by
  obtain ⟨mode, key, p, ⟨ck0, ck1⟩⟩ := rc
  rw [eq_comm, ← Trailer.mk.injEq]

/-- The checksum covers the first six bytes only (R54, R56). -/
theorem checksumOf_setTrailer (rc : Record) (ck : Trailer) :
    checksumOf { rc with trailer := ck } = checksumOf rc := by
  simp only [checksumOf, ckSum_setTrailer]

/-- A 64-bit number stands for its own record. -/
theorem decodeTableWord_wordOfRecord (rc : Record) :
    decodeTableWord 64 (wordOfRecord rc).toNat = (decode rc).toOption := by
  unfold decodeTableWord
  rw [Nat.mod_eq_of_lt (wordOfRecord rc).isLt, BitVec.ofNat_toNat, BitVec.setWidth_eq,
    recordOfWord_wordOfRecord, decodeBytes_bytesOfRecord]
  cases decode rc <;> rfl

theorem decodeTableWord_of_wellFormed (i : Instr) {w : Nat}
    (hw : (wordOfRecord (encode i)).toNat = w) (h : i.wellFormed = true) :
    decodeTableWord 64 w = some i := by
  rw [← hw, decodeTableWord_wordOfRecord, (decode_eq_ok_iff_wellFormed _ i).mpr ⟨rfl, h⟩]
  rfl

theorem decodeTableWord_of_wrong_trailer (rc : Record) {w : Nat}
    (hw : (wordOfRecord rc).toNat = w) (h : checksumOf rc ≠ rc.trailer) :
    decodeTableWord 64 w = none := by
  rw [← hw, decodeTableWord_wordOfRecord, (decode_eq_error_iff rc).mpr h]
  rfl

/-! ### The rows of the table as conditions on the record (R62) -/

theorem word_fits_zero_key_row (rc : Record) :
    wordOfRecord rc &&& 0x00FF000000000000#64 = 0x0000000000000000#64 ↔ rc.key = 0x00#8 := by
  rw [Laws.word_and_key_mask, show 0x0000000000000000#64 = 0#8 ++ 0x00#8 ++ 0#48 by decide,
    BitVec.append_left_inj, BitVec.append_right_inj]

theorem word_fits_bit_five_row (rc : Record) :
    wordOfRecord rc &&& 0x0020000000000000#64 = 0x0020000000000000#64 ↔
      rc.key.getLsbD 5 = true := by
  refine ⟨fun h => ?_, Laws.word_and_override_mask rc⟩
  have hbit := congrArg (fun w => w.getLsbD 53) h
  exact (getLsbD_wordOfRecord rc 1 5 (by decide)).symm.trans (by simpa using hbit)

/-- A row whose pattern names a mode byte and nothing below it fits the records of that mode. -/
theorem word_fits_mode_row (rc : Record) (pattern : BitVec 64)
    (hlow : pattern.extractLsb' 0 56 = 0#56) :
    wordOfRecord rc &&& 0xFF00000000000000#64 = pattern ↔
      rc.mode = pattern.extractLsb' 56 8 := by
  have hsplit : pattern = pattern.extractLsb' 56 8 ++ 0#56 := by
    rw [← hlow, BitVec.extractLsb'_append_extractLsb'_eq_extractLsb' (show 56 = 0 + 56 from rfl)]
    exact BitVec.extractLsb'_eq_self.symm
  rw [Laws.word_and_mode_mask]
  conv_lhs => rw [hsplit]
  exact BitVec.append_left_inj _

/-- The table's first fitting row for an operation's record is the operation's own row. -/
theorem firstRow_encode (i : Instr) (h : i.rowHolds = true) :
    firstRow (wordOfRecord (encode i)) tableRows = some (mnemonic i) := by
  simp only [tableRows, firstRow, word_fits_zero_key_row, word_fits_bit_five_row,
    word_fits_mode_row, BitVec.reduceExtractLsb']
  cases i with
  | var7K0 mode p ck => rfl
  | var7K5 mode key p ck =>
    have hbit : key.getLsbD 5 = true := h
    exact (if_neg (ne_zero_of_bit_five hbit)).trans (if_pos hbit)
  | suba | rsv2 | rsv3 | rsv4 | rsv5 | rsv6 | var7M | fixed =>
    obtain ⟨hzero, hbit⟩ := (not_keyOverride_iff _).mp h
    exact (if_neg hzero).trans (if_neg hbit)
  | invm mode key p ck =>
    obtain ⟨hkey, hmode⟩ := Bool.and_eq_true_iff.mp h
    obtain ⟨hzero, hbit⟩ := (not_keyOverride_iff key).mp hkey
    obtain ⟨h1, h2, h3, h4, h5, h6, h7, hFF⟩ := (not_modeKnown_iff mode).mp hmode
    simp only [encode, mnemonic, hzero, hbit, h1, h2, h3, h4, h5, h6, h7, hFF, if_false,
      Bool.false_eq_true, BitVec.and_zero, if_true]

/-! ### The outcome map (R61) -/

/-- What a result leaves in the status and the buffer, from the old buffer. -/
def report (r : Except Failure Output) (old : Output) : Status × Output :=
  match r with
  | .ok o    => (.ok, o)
  | .error f => (failureStatus f, old)

theorem deliver_report (r : Except Failure Output) (s : State) :
    ((deliver r s).status, (deliver r s).out) = report r s.out := by
  cases r <;> rfl

theorem report_subaOutput (T : Tables) (key : Byte) (p : Payload) (old : Output) :
    report (subaOutput T key p) old =
      if h : key.toNat < 32 then (.ok, cipherA T ⟨key.toNat, h⟩ p) else (.invalidKey, old) := by
  split_ifs with h
  · rw [subaOutput_of_lt T key p h]
    rfl
  · rw [subaOutput_of_ge T key p (Nat.le_of_not_lt h)]
    rfl

theorem complementOutput_eq_complemented (p : Payload) : complementOutput p = complemented p := by
  have hbyte : ∀ b : Byte, complement b = ~~~b := fun b => BitVec.xor_allOnes
  simp only [complementOutput, complemented, hbyte]

theorem report_variant7Output (T : Tables) (key : Byte) (p : Payload) (old : Output) :
    report (variant7Output T key p) old =
      if key.getLsbD 0 then (.ok, complemented p)
      else if h : key.toNat < 32 then (.ok, cipherA T ⟨key.toNat, h⟩ p)
      else (.invalidKey, old) := by
  rw [← report_subaOutput, ← complementOutput_eq_complemented, variant7Output]
  split_ifs <;> rfl

/-- The result of an operation is the outcome map's entry for its record. -/
theorem report_operationResult (T : Tables) (i : Instr) (old : Output) (h : i.wellFormed = true) :
    report (operationResult T i) old = outcomeMap T (encode i) old := by
  obtain ⟨hrow, hck⟩ := (wellFormed_iff i).mp h
  rw [outcomeMap, if_neg (not_not_intro hck)]
  cases i with
  | var7K0 mode p ck => exact report_variant7Output T 0x00#8 p old
  | var7K5 mode key p ck =>
    have hbit : key.getLsbD 5 = true := hrow
    have hrange : ¬ key.toNat < 32 := Nat.not_lt.mpr (le_toNat_of_bit_five hbit)
    have hmap := report_variant7Output T key p old
    rw [dif_neg hrange] at hmap
    simp only [encode, ne_zero_of_bit_five hbit, hbit, if_false, if_true]
    exact hmap
  | suba key p ck =>
    obtain ⟨hzero, hbit⟩ := (not_keyOverride_iff key).mp hrow
    simp only [encode, hzero, hbit, if_false]
    exact report_subaOutput T key p old
  | var7M key p ck =>
    obtain ⟨hzero, hbit⟩ := (not_keyOverride_iff key).mp hrow
    simp only [encode, hzero, hbit, if_false]
    exact report_variant7Output T key p old
  | rsv2 key | rsv3 key | rsv4 key | rsv5 key | rsv6 key | fixed key =>
    obtain ⟨hzero, hbit⟩ := (not_keyOverride_iff key).mp hrow
    simp only [encode, hzero, hbit, if_false]
    rfl
  | invm mode key p ck =>
    obtain ⟨hkey, hmode⟩ := Bool.and_eq_true_iff.mp hrow
    obtain ⟨hzero, hbit⟩ := (not_keyOverride_iff key).mp hkey
    obtain ⟨h1, h2, h3, h4, h5, h6, h7, hFF⟩ := (not_modeKnown_iff mode).mp hmode
    have hreserved : ¬ (2 ≤ mode.toNat ∧ mode.toNat ≤ 6) := by bv_omega
    simp only [encode, hzero, hbit, h1, h7, hreserved, hFF, if_false]
    rfl

/-- The result of a transaction is the outcome map's entry for its record. -/
theorem report_transactionResult (T : Tables) (rc : Record) (old : Output) :
    report (transactionResult T rc) old = outcomeMap T rc old := by
  unfold transactionResult
  split_ifs with hck
  · have hdec : decode rc = .ok (select rc) := (decode_eq_ok_iff rc _).mpr ⟨hck, rfl⟩
    obtain ⟨henc, hwf⟩ := (decode_eq_ok_iff_wellFormed rc _).mp hdec
    rw [report_operationResult T (select rc) old hwf, henc]
  · exact (if_pos hck).symm

/-- A transaction on a record with a wrong trailer ends in `InvalidChecksum` (R56). -/
theorem transactionResult_of_decode_error (T : Tables) {rc : Record}
    (h : decode rc = .error .invalidChecksum) :
    transactionResult T rc = .error .invalidChecksum :=
  if_neg ((decode_eq_error_iff rc).mp h)

end Sys2Proof.Encoding

namespace Sys2Proof.Proofs

open Sys2Proof.Machine Sys2Proof.Encoding

/-- Settles O22: the bytes are read back as the record, which decodes to the instruction since its
row and its trailer hold. -/
theorem decodingAnEncodedInstructionGivesItBack :
    Obligations.DecodingAnEncodedInstructionGivesItBack := fun i hwf =>
  (decodeBytes_bytesOfRecord (encode i)).trans
    ((decode_eq_ok_iff_wellFormed (encode i) i).mpr ⟨rfl, hwf⟩)

/-- Settles O17: the one valid trailer for six bytes is their checksum, which no trailer changes. -/
theorem decodeChecksTheTrailerFirst : Obligations.DecodeChecksTheTrailerFirst := by
  refine ⟨fun rc hne => ?_, fun rc h0 h1 => ?_, fun s herr => ?_, fun mode key p => ?_⟩
  · rw [decode_eq_error_iff, ne_eq, checksumOf_eq_trailer_iff, not_and_or]
    exact hne
  · exact (decode_eq_ok_iff rc _).mpr ⟨(checksumOf_eq_trailer_iff rc).mpr ⟨h0, h1⟩, rfl⟩
  · refine ⟨_, step_eq_deliver s, ?_⟩
    rw [transactionResult_of_decode_error _ herr]
    rfl
  · have hsum : ∀ ck, checksumOf ⟨mode, key, p, ck⟩ = checksumOf ⟨mode, key, p, ⟨0, 0⟩⟩ :=
      fun ck => checksumOf_setTrailer ⟨mode, key, p, ⟨0, 0⟩⟩ ck
    refine ⟨checksumOf ⟨mode, key, p, ⟨0, 0⟩⟩, (decode_eq_ok_iff _ _).mpr ⟨hsum _, rfl⟩,
      fun ck hdec => ?_⟩
    exact ((decode_eq_ok_iff _ _).mp hdec).1.symm.trans (hsum ck)

/-- Settles O18: the two selections are those of the override's rows, and the ranges are bit 5 of the
key's number. -/
theorem zeroOrBitFiveKeySelectsVariant7 : Obligations.ZeroOrBitFiveKeySelectsVariant7 := by
  refine ⟨fun mode p ck => select_encode (.var7K0 mode p ck) rfl,
    fun mode key p ck hbit => select_encode (.var7K5 mode key p ck) hbit, fun key => ?_,
    by decide +kernel⟩
  have hzero : key = 0x00#8 ↔ key.toNat = 0 := BitVec.toNat_inj.symm
  rw [keyOverride_iff, getLsbD_five_iff, hzero]
  omega

/-- Settles O20: the record is that of the selected operation, whose row's condition holds. -/
theorem selectionFollowsTheTable : Obligations.SelectionFollowsTheTable := by
  intro rc
  obtain ⟨henc, hrow⟩ := (select_eq_iff rc _).mp rfl
  have h := firstRow_encode (select rc) hrow
  rwa [henc] at h

/-- Settles O21. -/
theorem wordAndRecordAgree : Obligations.WordAndRecordAgree :=
  ⟨recordOfWord_wordOfRecord, wordOfRecord_recordOfWord⟩

/-- Settles O23. -/
theorem encodingADecodedRecordGivesItBack : Obligations.EncodingADecodedRecordGivesItBack :=
  fun rc i => (decode_eq_ok_iff_wellFormed rc i).mp

/-- Settles O35: a transaction delivers its result, and the result is the map's entry. -/
theorem transactionFollowsTheOutcomeMap : Obligations.TransactionFollowsTheOutcomeMap := fun s =>
  ⟨_, step_eq_deliver s, (deliver_report _ (runChecksum s)).trans
    (report_transactionResult s.sbox s.record s.out)⟩

/-- Settles O5: the zero word has a wrong trailer, and the other words are the numbers of the records
of well-formed instructions. -/
theorem sampleRecordsDecode : Obligations.SampleRecordsDecode :=
  ⟨decodeTableWord_of_wrong_trailer ⟨0, 0, ⟨0, 0, 0, 0⟩, ⟨0, 0⟩⟩
      (by decide) (by decide +kernel),
    decodeTableWord_of_wellFormed (.var7K0 0x00 ⟨0, 0, 0, 0⟩ ⟨0x00, 0xD8⟩)
      (by decide) (by decide +kernel),
    decodeTableWord_of_wellFormed (.var7K5 0xFF 0x21 ⟨1, 2, 3, 4⟩ ⟨0x0B, 0x6C⟩)
      (by decide) (by decide +kernel),
    decodeTableWord_of_wellFormed (.suba 0x1F ⟨0x7F, 0xA5, 0x94, 0x00⟩ ⟨0x80, 0x8C⟩)
      (by decide) (by decide +kernel),
    decodeTableWord_of_wellFormed (.rsv2 0x01 ⟨1, 2, 3, 4⟩ ⟨0x2D, 0xC4⟩)
      (by decide) (by decide +kernel),
    decodeTableWord_of_wellFormed (.var7M 0x01 ⟨0x12, 0x34, 0x56, 0x78⟩ ⟨0xD6, 0x0F⟩)
      (by decide) (by decide +kernel),
    decodeTableWord_of_wellFormed (.fixed 0x01 ⟨0xDE, 0xAD, 0xBE, 0xEF⟩ ⟨0xF5, 0xEA⟩)
      (by decide) (by decide +kernel),
    decodeTableWord_of_wellFormed (.invm 0x10 0x01 ⟨1, 2, 3, 4⟩ ⟨0xC5, 0xC1⟩)
      (by decide) (by decide +kernel)⟩

end Sys2Proof.Proofs
end

section
/-!
PROOFS of the family `40_checksum`: the rotator, the inner iteration, and the checksum as a function
of the 48 message bits.

`CS` is seen as two 16-bit words, the running checksum `CS[0]:CS[1]` and the chunk `CS[2]:CS[3]`. An
inner iteration is one step of the recurrence on the first word, fed with the top bit of the second,
while the second shifts (`crcWord_ckIter`, `chunkWord_ckIter`); both forms of R77 follow. A step of
the recurrence is additive over GF(2), so flipping message bits changes the checksum by a difference
that the flipped bits alone determine (`checksumWord_xor`), which gives R78.
-/

namespace Sys2Proof.Checksum

open Sys2Proof.Machine Sys2Proof.Claims

/-! ### Shifting one bit into a word (R70) -/

theorem shiftLeft_or_ofBool {w : Nat} (x : BitVec w) (b : Bool) :
    (x <<< 1) ||| (BitVec.ofBool b).setWidth w = x.shiftConcat b := by
  refine BitVec.eq_of_getLsbD_eq fun j hj => ?_
  simp only [BitVec.getLsbD_or, BitVec.getLsbD_shiftLeft, BitVec.getLsbD_setWidth,
    BitVec.getLsbD_ofBool, BitVec.getLsbD_shiftConcat]
  cases j <;> simp [hj]

theorem shiftConcat_xor {w : Nat} (x y : BitVec w) (p q : Bool) :
    (x ^^^ y).shiftConcat (p ^^ q) = x.shiftConcat p ^^^ y.shiftConcat q := by
  refine BitVec.eq_of_getLsbD_eq fun j hj => ?_
  cases j <;> simp [hj]

theorem rotateLeft_one {w : Nat} (x : BitVec w) (hw : 1 < w) :
    x.rotateLeft 1 = x.shiftConcat x.msb := by
  refine BitVec.eq_of_getLsbD_eq fun j hj => ?_
  rw [BitVec.getLsbD_rotateLeft_of_le hw, BitVec.getLsbD_shiftConcat, BitVec.msb_eq_getLsbD_last]
  cases j <;> simp [hj]

theorem msb_append_left {v w : Nat} (hi : BitVec v) (lo : BitVec w) (hv : 0 < v) :
    (hi ++ lo).msb = hi.msb := by
  rw [BitVec.msb_append, if_neg hv.ne']

/-- Two words shifted one after the other, the bit that leaves the low one entering the high one,
are their concatenation shifted as one word. -/
theorem shiftConcat_append {v w : Nat} (hi : BitVec v) (lo : BitVec w) (b : Bool) (hw : 0 < w) :
    hi.shiftConcat lo.msb ++ lo.shiftConcat b = (hi ++ lo).shiftConcat b := by
  refine BitVec.eq_of_getLsbD_eq fun j hj => ?_
  simp only [BitVec.getLsbD_append, BitVec.getLsbD_shiftConcat, BitVec.msb_eq_getLsbD_last]
  rcases Nat.lt_trichotomy j w with hlow | rfl | hhigh
  · simp [hlow, hj, show j - 1 < w by omega]
  · simp [hw, hw.ne', hj, show 0 < v by omega]
  · have hpos : j - w ≠ 0 ∧ j - w < v := by omega
    simp [hpos, hj, hhigh.not_gt, show ¬ j - 1 < w by omega, show j ≠ 0 by omega,
      Nat.sub_right_comm]

/-! ### The rotator and the inner iteration (R70, R73) -/

theorem rol1c_byte (cin : Bit) (b : Byte) : (rol1c cin b).2 = b.shiftConcat cin :=
  shiftLeft_or_ofBool b cin

theorem rol1c_toNat (cin : Bit) (b : Byte) :
    256 * (rol1c cin b).1.toNat + (rol1c cin b).2.toNat = 2 * b.toNat + cin.toNat := by
  have hcarry : (rol1c cin b).1.toNat = b.toNat / 128 % 2 := Nat.toNat_testBit b.toNat 7
  rw [hcarry, rol1c_byte, BitVec.toNat_shiftConcat, Nat.shiftLeft_eq]
  have := cin.toNat_le
  omega

/-- `CS[0]:CS[1]`, the running checksum (R77 form 2). -/
def crcWord (e : Engine) : BitVec 16 := e.cs0 ++ e.cs1

/-- `CS[2]:CS[3]`, where the chunk is loaded (R72). -/
def chunkWord (e : Engine) : BitVec 16 := e.cs2 ++ e.cs3

theorem ring_eq_append (e : Engine) : ring e = chunkWord e ++ crcWord e :=
  BitVec.append_assoc

theorem crcWord_msb (e : Engine) : (crcWord e).msb = e.cs0.getLsbD 7 :=
  (msb_append_left e.cs0 e.cs1 (by decide)).trans (BitVec.msb_eq_getLsbD_last _)

theorem chunkWord_msb (e : Engine) : (chunkWord e).msb = e.cs2.getLsbD 7 :=
  (msb_append_left e.cs2 e.cs3 (by decide)).trans (BitVec.msb_eq_getLsbD_last _)

/-- Step d of R73 sets a bit that the rotate of step b has cleared: the bit is shifted in. -/
theorem inject_shiftConcat_false (x : Byte) (m : Bit) :
    (if m then x.shiftConcat false ||| 0x01#8 else x.shiftConcat false) = x.shiftConcat m := by
  cases m
  · rfl
  · rw [if_pos rfl, ← shiftLeft_or_ofBool, ← shiftLeft_or_ofBool]
    simp

theorem ckIter_cs0 (e : Engine) :
    (ckIter e).cs0 =
      if e.cs0.getLsbD 7 then (rol1c (e.cs1.getLsbD 7) e.cs0).2 ^^^ 0x80#8
      else (rol1c (e.cs1.getLsbD 7) e.cs0).2 := rfl

/-- Steps b and d as one shift, then the taps of step g. -/
theorem ckIter_cs1 (e : Engine) :
    (ckIter e).cs1 =
      if e.cs0.getLsbD 7 then e.cs1.shiftConcat (e.cs2.getLsbD 7) ^^^ 0x05#8
      else e.cs1.shiftConcat (e.cs2.getLsbD 7) := by
  rw [← inject_shiftConcat_false, ← rol1c_byte]
  rfl

theorem ckIter_cs2 (e : Engine) : (ckIter e).cs2 = (rol1c (e.cs3.getLsbD 7) e.cs2).2 := rfl

theorem ckIter_cs3 (e : Engine) : (ckIter e).cs3 = (rol1c (e.cs0.getLsbD 7) e.cs3).2 := rfl

/-- Form 2's step (R77) as a shift and the taps. -/
theorem recurrenceStep_eq (crc : BitVec 16) (m : Bit) :
    recurrenceStep crc m = crc.shiftConcat m ^^^ (if crc.msb then 0x8005#16 else 0#16) := by
  rw [recurrenceStep, shiftLeft_or_ofBool, BitVec.msb_eq_getLsbD_last]
  split_ifs
  · rfl
  · exact BitVec.xor_zero.symm

/-- An inner iteration is a recurrence step on `CS[0]:CS[1]`, fed by the chunk's top bit. -/
theorem crcWord_ckIter (e : Engine) :
    crcWord (ckIter e) = recurrenceStep (crcWord e) (chunkWord e).msb := by
  rw [recurrenceStep_eq, crcWord_msb, chunkWord_msb, crcWord, crcWord, ckIter_cs0, ckIter_cs1,
    rol1c_byte, ← shiftConcat_append _ _ _ (by decide), BitVec.msb_eq_getLsbD_last]
  split_ifs
  · exact BitVec.xor_append.symm
  · exact BitVec.xor_zero.symm

/-- An inner iteration shifts the chunk, the checksum's top bit entering below. -/
theorem chunkWord_ckIter (e : Engine) :
    chunkWord (ckIter e) = (chunkWord e).shiftConcat (crcWord e).msb := by
  rw [crcWord_msb, chunkWord, chunkWord, ckIter_cs2, ckIter_cs3, rol1c_byte, rol1c_byte,
    ← shiftConcat_append _ _ _ (by decide), BitVec.msb_eq_getLsbD_last]

/-! ### The checksum as a recurrence over the message bits (R74, R75, R77 form 2) -/

/-- The first `n` bits of a word, the most significant first. -/
def topBits {w : Nat} (n : Nat) (x : BitVec w) : List Bit := (List.range n).map x.getMsbD

theorem topBits_succ {w n : Nat} (x : BitVec w) (b : Bool) (hn : n < w) :
    topBits (n + 1) x = x.msb :: topBits n (x.shiftConcat b) := by
  simp only [topBits, List.range_succ_eq_map, List.map_cons, List.map_map,
    ← BitVec.msb_eq_getMsbD_zero, List.cons.injEq, true_and]
  refine List.map_congr_left fun j hj => ?_
  have hj : j < n := List.mem_range.mp hj
  simp only [Function.comp, BitVec.getMsbD_eq_getLsbD, BitVec.getLsbD_shiftConcat]
  simp [show j + 1 < w by omega, show j < w by omega, show w - 1 - j ≠ 0 by omega,
    show w - 1 - j < w by omega, show w - 1 - (j + 1) = w - 1 - j - 1 by omega]

theorem topBits_append {v w : Nat} (hi : BitVec v) (lo : BitVec w) :
    topBits (v + w) (hi ++ lo) = topBits v hi ++ topBits w lo := by
  simp only [topBits, List.range_add, List.map_append, List.map_map]
  congr 1
  · refine List.map_congr_left fun j hj => ?_
    simp [List.mem_range.mp hj]
  · refine List.map_congr_left fun j _ => ?_
    simp

theorem recurrence_eq_foldl_topBits (m : BitVec 48) :
    recurrence m = (topBits 48 m).foldl recurrenceStep 0xFFFF#16 := by
  rw [recurrence, topBits, List.foldl_map]
  refine List.foldl_ext _ _ _ fun crc j hj => ?_
  rw [BitVec.getMsbD_eq_getLsbD, decide_eq_true (List.mem_range.mp hj), Bool.true_and]

/-- Up to 16 iterations feed the chunk's bits in order; what enters the chunk below stays in it. -/
theorem crcWord_ckIters (n : Nat) (hn : n ≤ 16) (e : Engine) :
    crcWord (ckIters n e) = (topBits n (chunkWord e)).foldl recurrenceStep (crcWord e) := by
  induction n generalizing e with
  | zero => rfl
  | succ n ih =>
    rw [topBits_succ _ (crcWord e).msb hn, List.foldl_cons, ← crcWord_ckIter, ← chunkWord_ckIter]
    exact ih (Nat.le_of_succ_le hn) (countIter (ckIter e))

theorem crcWord_ckRound (rc : Record) (r : Fin 3) (e : Engine) :
    crcWord (ckRound rc r e) =
      (topBits 8 (chunk rc r).1 ++ topBits 8 (chunk rc r).2).foldl recurrenceStep (crcWord e) := by
  rw [← topBits_append]
  exact crcWord_ckIters 16 (Nat.le_refl 16) (ckLoad rc r (startIters e))

theorem topBits_message (rc : Record) :
    topBits 48 (message rc) =
      topBits 8 rc.mode ++ topBits 8 rc.key ++ topBits 8 rc.payload.p0 ++ topBits 8 rc.payload.p1 ++
        topBits 8 rc.payload.p2 ++ topBits 8 rc.payload.p3 := by
  simp only [← topBits_append]
  rfl

theorem crcWord_ckSum (rc : Record) (e : Engine) :
    crcWord (ckSum rc e) = recurrence (message rc) := by
  have hinit : crcWord (startRounds (ckInit e)) = 0xFFFF#16 :=
    show 0xFF#8 ++ 0xFF#8 = 0xFFFF#16 by decide
  rw [recurrence_eq_foldl_topBits, topBits_message, ckSum, crcWord_ckRound, crcWord_ckRound,
    crcWord_ckRound, hinit]
  simp only [← List.foldl_append, List.append_assoc]
  rfl

/-- The checksum of a record, high byte first, is the recurrence over its message. -/
theorem checksumOf_append (rc : Record) :
    (checksumOf rc).ck0 ++ (checksumOf rc).ck1 = recurrence (message rc) := by
  rw [checksumOf, ← crcWord_ckSum, crcWord]

/-! ### The checksum of a message (R78) -/

theorem message_recordOfMessage (m : BitVec 48) : message (recordOfMessage m) = m := by
  simp only [message, recordOfMessage,
    BitVec.extractLsb'_append_extractLsb'_eq_extractLsb' (show 40 = 32 + 8 from rfl),
    BitVec.extractLsb'_append_extractLsb'_eq_extractLsb' (show 32 = 24 + 8 from rfl),
    BitVec.extractLsb'_append_extractLsb'_eq_extractLsb' (show 24 = 16 + 8 from rfl),
    BitVec.extractLsb'_append_extractLsb'_eq_extractLsb' (show 16 = 8 + 8 from rfl),
    BitVec.extractLsb'_append_extractLsb'_eq_extractLsb' (show 8 = 0 + 8 from rfl),
    BitVec.extractLsb'_eq_self]

theorem checksumWord_eq_recurrence (m : BitVec 48) : checksumWord m = recurrence m := by
  rw [checksumWord, checksumOf_append, message_recordOfMessage]

theorem recurrenceStep_xor (crc crc' : BitVec 16) (m m' : Bit) :
    recurrenceStep (crc ^^^ crc') (m ^^ m') =
      recurrenceStep crc m ^^^ recurrenceStep crc' m' := by
  have htaps : ∀ t t' : Bool, (if t ^^ t' then 0x8005#16 else 0#16) =
      (if t then 0x8005#16 else 0#16) ^^^ (if t' then 0x8005#16 else 0#16) := by decide
  simp only [recurrenceStep_eq, shiftConcat_xor, BitVec.msb_xor, htaps]
  ac_rfl

theorem foldl_recurrenceStep_xor (f g : Nat → Bit) (js : List Nat) (crc crc' : BitVec 16) :
    js.foldl (fun c j => recurrenceStep c (f j ^^ g j)) (crc ^^^ crc') =
      js.foldl (fun c j => recurrenceStep c (f j)) crc ^^^
        js.foldl (fun c j => recurrenceStep c (g j)) crc' := by
  induction js generalizing crc crc' with
  | nil => rfl
  | cons j js ih => simp only [List.foldl_cons, recurrenceStep_xor, ih]

/-- By how much the checksum changes when the message bits set in `d` are flipped: the recurrence
from 0. -/
def difference (d : BitVec 48) : BitVec 16 :=
  (List.range 48).foldl (fun crc j => recurrenceStep crc (d.getLsbD (47 - j))) 0#16

theorem recurrence_xor (m d : BitVec 48) :
    recurrence (m ^^^ d) = recurrence m ^^^ difference d := by
  have h := foldl_recurrenceStep_xor (fun j => m.getLsbD (47 - j)) (fun j => d.getLsbD (47 - j))
    (List.range 48) 0xFFFF#16 0#16
  simpa only [recurrence, difference, BitVec.getLsbD_xor, BitVec.xor_zero] using h

theorem checksumWord_xor (m d : BitVec 48) :
    checksumWord (m ^^^ d) = checksumWord m ^^^ difference d := by
  simp only [checksumWord_eq_recurrence, recurrence_xor]

theorem xor_ne_self {w : Nat} (x : BitVec w) {d : BitVec w} (hd : d ≠ 0#w) : x ^^^ d ≠ x := by
  simpa using hd

/-- The difference that flipping the one message bit `i` makes. -/
def flipDifference (i : Fin 48) : BitVec 16 := difference (BitVec.twoPow 48 i.val)

theorem flipDifference_ne_zero : ∀ i, flipDifference i ≠ 0#16 := by decide +kernel

theorem flipDifference_injective : Function.Injective flipDifference :=
  List.nodup_ofFn.mp (by decide +kernel)

theorem difference_one : difference 1#48 = 1#16 := by decide +kernel

/-! ### The verdict on the trailer (R76) -/

theorem trailerMatches_runChecksum_iff_bytes (s : State) :
    trailerMatches (runChecksum s) = true ↔
      (ckSum s.record s.engine).cs0 = s.record.trailer.ck0 ∧
        (ckSum s.record s.engine).cs1 = s.record.trailer.ck1 := by
  simp [trailerMatches, fetchRecord, ckMatches]

theorem subaOutput_ne_invalidChecksum (T : Tables) (key : Byte) (p : Payload) :
    subaOutput T key p ≠ .error .invalidChecksum := by
  rcases Nat.lt_or_ge key.toNat 32 with h | h
  · simp [subaOutput_of_lt T key p h]
  · simp [subaOutput_of_ge T key p h]

theorem variant7Output_ne_invalidChecksum (T : Tables) (key : Byte) (p : Payload) :
    variant7Output T key p ≠ .error .invalidChecksum := by
  unfold variant7Output
  split_ifs
  · simp
  · exact subaOutput_ne_invalidChecksum T key p

/-- No operation raises the failure of the trailer. -/
theorem operationResult_ne_invalidChecksum (T : Tables) (i : Instr) :
    operationResult T i ≠ .error .invalidChecksum := by
  cases i with
  | var7K0 mode p ck => exact variant7Output_ne_invalidChecksum T _ p
  | var7K5 mode key p ck => exact variant7Output_ne_invalidChecksum T key p
  | suba key p ck => exact subaOutput_ne_invalidChecksum T key p
  | var7M key p ck => exact variant7Output_ne_invalidChecksum T key p
  | rsv2 | rsv3 | rsv4 | rsv5 | rsv6 | fixed | invm => simp [operationResult]

theorem deliver_status_eq_invalidChecksum_iff (r : Except Failure Output) (s : State) :
    (deliver r s).status = .invalidChecksum ↔ r = .error .invalidChecksum := by
  cases r with
  | ok o => simp
  | error f => cases f <;> simp [failureStatus]

end Sys2Proof.Checksum

namespace Sys2Proof.Proofs

open Sys2Proof.Machine Sys2Proof.Claims Sys2Proof.Checksum

/-- Settles O11: a round feeds its chunk's 16 bits into the recurrence, and the three chunks are the
message. -/
theorem checksumIsASixteenBitRecurrence : Obligations.ChecksumIsASixteenBitRecurrence :=
  checksumOf_append

/-- Settles O10: the two 16-bit halves shift as one word, the top bit re-entering below, and the
taps fall on the low half. -/
theorem innerIterationIsAThirtyTwoBitRing : Obligations.InnerIterationIsAThirtyTwoBitRing := by
  intro e
  have htop : (ring e).getLsbD 15 = (crcWord e).msb := by
    rw [ring_eq_append, BitVec.msb_eq_getLsbD_last, BitVec.getLsbD_append]
    rfl
  have htaps : ∀ t : Bool, (if t then 0x00008005#32 else 0#32) =
      0#16 ++ (if t then 0x8005#16 else 0#16) := by decide
  calc ring (ckIter e)
      = (chunkWord e).shiftConcat (crcWord e).msb ++
          recurrenceStep (crcWord e) (chunkWord e).msb := by
        rw [ring_eq_append, chunkWord_ckIter, crcWord_ckIter]
    _ = (chunkWord e ++ crcWord e).shiftConcat (chunkWord e).msb ^^^
          (0#16 ++ (if (crcWord e).msb then 0x8005#16 else 0#16)) := by
        rw [recurrenceStep_eq, ← shiftConcat_append _ _ _ (by decide), BitVec.xor_append,
          BitVec.xor_zero]
    _ = (ring e).rotateLeft 1 ^^^ (if (ring e).getLsbD 15 then 0x00008005#32 else 0#32) := by
        rw [rotateLeft_one _ (by decide), htop, htaps, ring_eq_append,
          msb_append_left _ _ (by decide)]

/-- Settles O12: both sides are the checksum of `a` and the difference of `b`. -/
theorem checksumIsAffine : Obligations.ChecksumIsAffine := by
  intro a b
  have hb : checksumWord b = difference b ^^^ checksumWord 0#48 := by
    rw [BitVec.xor_comm, ← checksumWord_xor, BitVec.zero_xor]
  rw [checksumWord_xor, hb, BitVec.xor_assoc, BitVec.xor_assoc, BitVec.xor_self, BitVec.xor_zero]

/-- Settles O13: the 48 differences of one flipped bit are not 0 and pairwise distinct. -/
theorem oneOrTwoFlippedBitsAreDetected : Obligations.OneOrTwoFlippedBitsAreDetected := by
  intro m i j
  refine ⟨?_, fun hij => ?_⟩
  · rw [checksumWord_xor]
    exact xor_ne_self _ (flipDifference_ne_zero i)
  · rw [checksumWord_xor, checksumWord_xor, BitVec.xor_assoc]
    refine xor_ne_self _ fun hzero => hij ?_
    exact flipDifference_injective (BitVec.xor_eq_zero_iff.mp hzero)

/-- Settles O14: the last message bit is shifted in last, after which no step moves it. -/
theorem lastMessageBitFlipsTheLastChecksumBit :
    Obligations.LastMessageBitFlipsTheLastChecksumBit := fun m =>
  (checksumWord_xor m 1#48).trans (congrArg _ difference_one)

/-- Settles O2: a wrong trailer is the transaction's only source of that failure. -/
theorem stepRejectsExactlyAWrongTrailer : Obligations.StepRejectsExactlyAWrongTrailer := by
  intro s
  have hverdict := trailerMatches_runChecksum_iff_bytes s
  rcases step_cases s with ⟨hbad, hstep⟩ | ⟨hgood, hstep⟩
  · refine ⟨fun _ => hstep, fun h0 h1 => ?_⟩
    exact absurd (hverdict.mpr ⟨h0, h1⟩) (by simp [hbad])
  · refine ⟨fun hne => ?_, fun _ _ t ht hstatus => ?_⟩
    · exact absurd (hverdict.mp hgood) (not_and_or.mpr hne)
    · obtain rfl := eq_deliver_of_exec (hstep.symm.trans ht)
      exact operationResult_ne_invalidChecksum _ _
        ((deliver_status_eq_invalidChecksum_iff _ _).mp hstatus)

/-- Settles O6. -/
theorem rotatorShiftsThroughTheCarry : Obligations.RotatorShiftsThroughTheCarry := by
  intro cin b
  refine ⟨rol1c_carry cin b, ?_, fun j hj => ?_, rol1c_toNat cin b⟩
  · simp [rol1c_byte]
  · rw [rol1c_byte, BitVec.getLsbD_shiftConcat]
    simp [show j + 1 < 8 by omega]

/-- Settles O8. -/
theorem initAndLoadSetTheChecksumState : Obligations.InitAndLoadSetTheChecksumState :=
  ⟨fun _ => ⟨rfl, rfl, rfl, rfl⟩, fun rc r e =>
    ⟨ckLoad_cs0 rc r e, ckLoad_cs1 rc r e, ckLoad_cs2 rc r e, ckLoad_cs3 rc r e⟩⟩

/-- Settles O9: running the seven steps gives the four bytes. -/
theorem innerIterationFollowsTheSevenSteps : Obligations.InnerIterationFollowsTheSevenSteps :=
  fun e => ⟨ckIter_cs0 e, rfl, ckIter_cs2 e, ckIter_cs3 e⟩

end Sys2Proof.Proofs
end

section
/-!
PROOFS of the family `41_dispatch`: which operation a transaction runs, and on which input.

The selection by the mode byte is `select_eq_iff` row by row; what is missing there is that the
unknown modes are those left over for `INVM`. The input of any length is read by `recordOfBytes`
alone, so the decoder and the host's call follow from what that reads.
-/

namespace Sys2Proof.Dispatch

open Sys2Proof.Machine Sys2Proof.Claims Sys2Proof.Encoding

/-! ### The key and the mode (R57, R58, R93) -/

theorem not_keyOverride_of_not_overrides {key : Byte} (h : ¬ overrides key) :
    (!keyOverride key) = true :=
  (not_keyOverride_iff key).mpr (not_or.mp h)

/-- The modes left over for `INVM` are 0 and 8 to 254. -/
theorem not_modeKnown_iff_modeUnknown (mode : Byte) :
    (!modeKnown mode) = true ↔ modeUnknown mode := by
  have hlt := mode.isLt
  simp only [not_modeKnown_iff, modeUnknown, ne_eq, ← BitVec.toNat_inj, BitVec.toNat_ofNat]
  omega

/-! ### An input of any length (R37, R91) -/

/-- Of the bytes of a record and what follows them, the record is read. -/
theorem recordOfBytes_bytesOfRecord_append (rc : Record) (extra : List Byte) :
    recordOfBytes (bytesOfRecord rc ++ extra) = .ok rc := rfl

theorem recordOfBytes_of_length_lt {input : List Byte} (h : input.length < 8) :
    recordOfBytes input = .error .shortInput := by
  unfold recordOfBytes
  split
  · simp only [List.length_cons] at h
    omega
  · rfl

theorem decodeBytes_of_recordOfBytes {input : List Byte} {rc : Record}
    (h : recordOfBytes input = .ok rc) : decodeBytes input = decode rc := by
  rw [decodeBytes, h]

theorem invoke_of_recordOfBytes {input : List Byte} {rc : Record} (s : State)
    (h : recordOfBytes input = .ok rc) : invoke input s = step (present rc s) := by
  rw [invoke, h]

theorem invoke_of_recordOfBytes_error {input : List Byte} {e : DecodeError} (s : State)
    (h : recordOfBytes input = .error e) : invoke input s = .refused .shortInput := by
  rw [invoke, h]

/-! ### The transaction (R90) -/

/-- With the record's own checksum in the trailer, the selected operation runs after the checksum
engine. -/
theorem step_of_checksumOf_eq_trailer {s : State} (h : checksumOf s.record = s.record.trailer) :
    step s = exec (select s.record) (runChecksum s) :=
  if_pos ((trailerMatches_runChecksum s).mpr h)

end Sys2Proof.Dispatch

namespace Sys2Proof.Proofs

open Sys2Proof.Machine Sys2Proof.Encoding Sys2Proof.Dispatch

/-- Settles O19: each clause is a row of the table, whose condition is that no key overrides and,
for `INVM`, that the mode is unknown. -/
theorem modeByteSelectsTheOperation : Obligations.ModeByteSelectsTheOperation := by
  intro mode key p ck hkey
  have hrow := not_keyOverride_of_not_overrides hkey
  exact ⟨fun h => h ▸ select_encode (.suba key p ck) hrow,
    fun h => h ▸ select_encode (.rsv2 key p ck) hrow,
    fun h => h ▸ select_encode (.rsv3 key p ck) hrow,
    fun h => h ▸ select_encode (.rsv4 key p ck) hrow,
    fun h => h ▸ select_encode (.rsv5 key p ck) hrow,
    fun h => h ▸ select_encode (.rsv6 key p ck) hrow,
    fun h => h ▸ select_encode (.var7M key p ck) hrow,
    fun h => h ▸ select_encode (.fixed key p ck) hrow,
    fun h => select_encode (.invm mode key p ck)
      (Bool.and_eq_true_iff.mpr ⟨hrow, (not_modeKnown_iff_modeUnknown mode).mpr h⟩)⟩

/-- Settles O24, from what `recordOfBytes` reads of the input. -/
theorem onlyTheFirstEightBytesCount : Obligations.OnlyTheFirstEightBytesCount := by
  refine ⟨fun rc extra s => ?_, fun input s hshort => ?_⟩
  · have hread := recordOfBytes_bytesOfRecord_append rc extra
    exact ⟨decodeBytes_of_recordOfBytes hread, invoke_of_recordOfBytes s hread⟩
  · exact invoke_of_recordOfBytes_error s (recordOfBytes_of_length_lt hshort)

/-- Settles O34: every transaction delivers a result. -/
theorem everyTransactionEnds : Obligations.EveryTransactionEnds := fun s => ⟨_, step_eq_deliver s⟩

/-- Settles O1: a record that decodes has its own checksum in the trailer. -/
theorem stepRunsTheDecodedInstruction : Obligations.StepRunsTheDecodedInstruction := by
  intro s i hdec
  obtain ⟨hck, rfl⟩ := (decode_eq_ok_iff s.record i).mp hdec
  exact step_of_checksumOf_eq_trailer hck

end Sys2Proof.Proofs
end

section
/-!
PROOFS of the family `42_ciphers`: what the operations write, and how it depends on the payload.

The nibble swap first, as a concatenation of the two nibbles. Then the result of each cipher
operation by its key. Output byte `j` of Substitution Cipher A and of the complement is a function
of payload byte `j` alone (`outputByte_cipherA`, `outputByte_complemented`), so no operation mixes
the bytes of its payload (`unmixed_operationResult`).
-/

namespace Sys2Proof.Ciphers

open Sys2Proof.Machine Sys2Proof.Claims Sys2Proof.Encoding

/-! ### The nibble swap (R100) -/

theorem nswap_eq_append (b : Byte) : nswap b = b.extractLsb' 0 4 ++ b.extractLsb' 4 4 := by
  refine BitVec.eq_of_getLsbD_eq fun j hj => ?_
  simp only [nswap, BitVec.getLsbD_or, BitVec.getLsbD_shiftLeft, BitVec.getLsbD_ushiftRight,
    BitVec.getLsbD_append, BitVec.getLsbD_extractLsb']
  interval_cases j <;> simp

theorem nswap_high_nibble (b : Byte) : (nswap b).extractLsb' 4 4 = b.extractLsb' 0 4 := by
  rw [nswap_eq_append]
  exact BitVec.extractLsb'_append_eq_left

theorem nswap_low_nibble (b : Byte) : (nswap b).extractLsb' 0 4 = b.extractLsb' 4 4 := by
  rw [nswap_eq_append]
  exact BitVec.extractLsb'_append_eq_right

theorem nswap_nswap (b : Byte) : nswap (nswap b) = b := by
  rw [nswap_eq_append (nswap b), nswap_low_nibble, nswap_high_nibble,
    BitVec.extractLsb'_append_extractLsb'_eq_extractLsb' (show 4 = 0 + 4 from rfl)]
  exact BitVec.extractLsb'_eq_self

/-- A cipher byte and its table entry give the payload byte back (R111 a). -/
theorem nswap_xor_table_entry (b k : Byte) : nswap (nswap b ^^^ k ^^^ k) = b := by
  rw [BitVec.xor_assoc, BitVec.xor_self, BitVec.xor_zero, nswap_nswap]

/-! ### The results of the cipher operations by the key (R102, R103) -/

theorem subaOutput_eq_cipherA (T : Tables) (key : Byte) (p : Payload) (h : key.toNat < 32) :
    subaOutput T key p = .ok (cipherA T ⟨key.toNat, h⟩ p) :=
  subaOutput_of_lt T key p h

theorem variant7Output_of_even (T : Tables) {key : Byte} (p : Payload)
    (h : key.getLsbD 0 = false) : variant7Output T key p = subaOutput T key p := by
  rw [variant7Output, h, if_neg Bool.false_ne_true]

theorem variant7Output_of_odd (T : Tables) {key : Byte} (p : Payload)
    (h : key.getLsbD 0 = true) : variant7Output T key p = .ok (complemented p) := by
  rw [variant7Output, if_pos h, complementOutput_eq_complemented]

/-- An operation delivers the result it is known to have. -/
theorem exec_of_result (i : Instr) (s : State) {r : Except Failure Output}
    (h : operationResult s.sbox i = r) : exec i s = .next (deliver r s) := by
  rw [exec_eq_deliver, h]

/-- Operations with the same result do the same. -/
theorem exec_congr {i i' : Instr} {s : State}
    (h : operationResult s.sbox i = operationResult s.sbox i') : exec i s = exec i' s := by
  rw [exec_eq_deliver, exec_eq_deliver, h]

/-- The next state of an operation whose result is known. -/
theorem eq_deliver_of_exec_of_result {i : Instr} {s t : State} {r : Except Failure Output}
    (hexec : exec i s = .next t) (h : operationResult s.sbox i = r) : t = deliver r s :=
  h ▸ eq_deliver_of_exec hexec

/-! ### Output byte `j` as a function of payload byte `j` (R111 e) -/

/-- The table of output position `j` (R102). -/
def positionTable (j : Fin 4) : Fin 4 :=
  match j with
  | 0 => 0
  | 1 => 2
  | 2 => 3
  | 3 => 1

theorem outputByte_cipherA (T : Tables) (idx : Fin 32) (rc : Record) (j : Fin 4) :
    outputByte (cipherA T idx rc.payload) j =
      nswap (payloadByte rc j) ^^^ (T.get (positionTable j)).get idx := by
  fin_cases j <;> rfl

theorem outputByte_complemented (rc : Record) (j : Fin 4) :
    outputByte (complemented rc.payload) j = ~~~(payloadByte rc j) := by
  fin_cases j <;> rfl

/-- Two results for the records `rc` and `rc'` that show no mixing: the same failure, or two outputs
that agree wherever the payloads do. -/
inductive Unmixed (rc rc' : Record) : Except Failure Output → Except Failure Output → Prop where
  | error (f : Failure) : Unmixed rc rc' (.error f) (.error f)
  | ok {o o' : Output}
      (h : ∀ j, payloadByte rc j = payloadByte rc' j → outputByte o j = outputByte o' j) :
      Unmixed rc rc' (.ok o) (.ok o')

/-- Delivered results that show no mixing have the same status, and after `Ok` buffers that agree
wherever the payloads do. -/
theorem Unmixed.deliver_agree {rc rc' : Record} {r r' : Except Failure Output}
    (h : Unmixed rc rc' r r') (s s' : State) :
    (deliver r s).status = (deliver r' s').status ∧
      ((deliver r s).status = .ok → ∀ j, payloadByte rc j = payloadByte rc' j →
        outputByte (deliver r s).out j = outputByte (deliver r' s').out j) := by
  cases h with
  | error f => exact ⟨rfl, fun hok => absurd hok (failureStatus_ne_ok f)⟩
  | ok hbytes => exact ⟨rfl, fun _ => hbytes⟩

theorem unmixed_subaOutput (T : Tables) (key : Byte) (rc rc' : Record) :
    Unmixed rc rc' (subaOutput T key rc.payload) (subaOutput T key rc'.payload) := by
  rcases Nat.lt_or_ge key.toNat 32 with hkey | hkey
  · rw [subaOutput_eq_cipherA _ _ _ hkey, subaOutput_eq_cipherA _ _ _ hkey]
    exact .ok fun j hj => by rw [outputByte_cipherA, outputByte_cipherA, hj]
  · rw [subaOutput_of_ge _ _ _ hkey, subaOutput_of_ge _ _ _ hkey]
    exact .error _

theorem unmixed_variant7Output (T : Tables) (key : Byte) (rc rc' : Record) :
    Unmixed rc rc' (variant7Output T key rc.payload) (variant7Output T key rc'.payload) := by
  cases hbit : key.getLsbD 0
  · rw [variant7Output_of_even T _ hbit, variant7Output_of_even T _ hbit]
    exact unmixed_subaOutput T key rc rc'
  · rw [variant7Output_of_odd T _ hbit, variant7Output_of_odd T _ hbit]
    exact .ok fun j hj => by rw [outputByte_complemented, outputByte_complemented, hj]

/-- An operation with one key does not mix the bytes of its payload. -/
theorem unmixed_operationResult (T : Tables) (i : Instr) (mode : Byte) (p : Payload)
    (ck : Trailer) :
    Unmixed (encode i) (encode (withOperands mode p ck i))
      (operationResult T i) (operationResult T (withOperands mode p ck i)) := by
  cases i with
  | var7K0 => exact unmixed_variant7Output T 0x00#8 _ _
  | var7K5 _ key => exact unmixed_variant7Output T key _ _
  | suba key => exact unmixed_subaOutput T key _ _
  | var7M key => exact unmixed_variant7Output T key _ _
  | fixed => exact .ok fun _ _ => rfl
  | rsv2 | rsv3 | rsv4 | rsv5 | rsv6 | invm => exact .error _

end Sys2Proof.Ciphers

namespace Sys2Proof.Proofs

open Sys2Proof.Machine Sys2Proof.Claims Sys2Proof.Ciphers

/-- Settles O39: the swap and the complement are their own inverses, and XOR with the table entry
cancels. -/
theorem cipherOutputsCanBeInverted : Obligations.CipherOutputsCanBeInverted := by
  refine ⟨fun key p ck s t hkey hexec => ?_, fun key p ck s t hodd hexec => ?_⟩
  · obtain rfl := eq_deliver_of_exec_of_result hexec (subaOutput_eq_cipherA s.sbox key p hkey)
    exact ⟨(nswap_xor_table_entry _ _).symm, (nswap_xor_table_entry _ _).symm,
      (nswap_xor_table_entry _ _).symm, (nswap_xor_table_entry _ _).symm⟩
  · obtain rfl := eq_deliver_of_exec_of_result hexec (variant7Output_of_odd s.sbox p hodd)
    simp only [deliver_ok, succeed_out, complemented, BitVec.not_not]

/-- Settles O40: both states are deliveries of results that show no mixing. -/
theorem outputBytesDoNotMix : Obligations.OutputBytesDoNotMix := by
  intro i mode p ck s s' t t' hsbox hexec hexec'
  obtain rfl := eq_deliver_of_exec hexec
  obtain rfl := eq_deliver_of_exec hexec'
  rw [← hsbox]
  exact (unmixed_operationResult s.sbox i mode p ck).deliver_agree s s'

/-- Settles O7. -/
theorem nibbleSwapExchangesTheNibbles : Obligations.NibbleSwapExchangesTheNibbles := fun b =>
  ⟨nswap_high_nibble b, nswap_low_nibble b⟩

/-- Settles O25. -/
theorem sboxLookupNeedsAKeyBelow32 : Obligations.SboxLookupNeedsAKeyBelow32 := fun T k key =>
  ⟨sboxRead_of_lt T k key, sboxRead_of_ge T k key⟩

/-- Settles O26, from the two results of the cipher. -/
theorem substitutionAWritesOrRaisesInvalidKey :
    Obligations.SubstitutionAWritesOrRaisesInvalidKey := by
  intro key p ck s
  refine ⟨fun hkey => ?_, fun hkey => ?_⟩
  · exact exec_of_result (.suba key p ck) s (subaOutput_eq_cipherA s.sbox key p hkey)
  · exact ⟨_, exec_of_result (.suba key p ck) s (subaOutput_of_ge s.sbox key p hkey), rfl⟩

/-- Settles O27: the three selections share one result, which bit 0 of the key decides. -/
theorem variant7ComplementsOrDelegates : Obligations.Variant7ComplementsOrDelegates := by
  intro mode key p ck s
  refine ⟨?_, fun heven => ?_, fun hodd => ?_⟩
  · have hzero : variant7Output s.sbox 0x00#8 p = .ok (cipherA s.sbox 0 p) :=
      (variant7Output_of_even s.sbox p (by decide)).trans
        (subaOutput_eq_cipherA s.sbox 0x00#8 p (by decide))
    exact exec_of_result (.var7K0 mode p ck) s hzero
  · have hresult := variant7Output_of_even s.sbox p heven
    exact ⟨exec_congr hresult, exec_congr hresult⟩
  · have hresult := variant7Output_of_odd s.sbox p hodd
    exact ⟨exec_of_result (.var7K5 mode key p ck) s hresult,
      exec_of_result (.var7M key p ck) s hresult⟩

/-- Settles O28. -/
theorem fixedWritesItsConstant : Obligations.FixedWritesItsConstant := fun key p ck s =>
  exec_eq_deliver (.fixed key p ck) s

/-- Settles O29: the result of each reserved row is the failure, whatever the operands. -/
theorem reservedModesAreUnimplemented : Obligations.ReservedModesAreUnimplemented :=
  fun key p ck s =>
    ⟨exec_eq_deliver (.rsv2 key p ck) s, exec_eq_deliver (.rsv3 key p ck) s,
      exec_eq_deliver (.rsv4 key p ck) s, exec_eq_deliver (.rsv5 key p ck) s,
      exec_eq_deliver (.rsv6 key p ck) s⟩

/-- Settles O30. -/
theorem unknownModeIsInvalidMode : Obligations.UnknownModeIsInvalidMode :=
  fun mode key p ck s => exec_eq_deliver (.invm mode key p ck) s

end Sys2Proof.Proofs
end

section
/-!
PROOFS of the family `60_exceptions`: what a failure leaves alone, which failure a transaction
takes, and what an earlier transaction means for a later one.

A transaction delivers its result, so its status is a failure's exactly when its result is that
failure (`deliver_status_eq_failureStatus_iff`). The causes of the four failures are listed once, as
conditions on the record (`operationCause`, `failureCause`), and a case split over the rows of the
selection table shows them exact (`operationResult_eq_error_iff`). A stream is a map of the
transactions taken alone (`map_shown_runRecords`).
-/

namespace Sys2Proof.Exceptions

open Sys2Proof.Machine Sys2Proof.Claims Sys2Proof.Encoding Sys2Proof.Dispatch Sys2Proof.Ciphers

/-! ### Delivering a failure (R120, R126) -/

/-- A delivery that is no success changes no byte of any space. -/
theorem memRead_deliver_of_status_ne_ok {r : Except Failure Output} {s : State}
    (h : (deliver r s).status ≠ .ok) (a : Loc) : memRead (deliver r s) a = memRead s a := by
  cases r with
  | ok o => exact absurd rfl h
  | error f => exact memRead_raiseFailure f s a

/-- The status delivered is a failure's exactly when the result is that failure. -/
theorem deliver_status_eq_failureStatus_iff (r : Except Failure Output) (s : State) (f : Failure) :
    (deliver r s).status = failureStatus f ↔ r = .error f := by
  cases r with
  | ok o => simp [(failureStatus_ne_ok f).symm]
  | error f' => cases f' <;> cases f <;> simp [failureStatus]

/-! ### The causes of the failures (R120 to R124) -/

/-- The only failure of Substitution Cipher A (R102). -/
theorem subaOutput_eq_error_iff (T : Tables) (key : Byte) (p : Payload) (f : Failure) :
    subaOutput T key p = .error f ↔ f = .invalidKey ∧ 32 ≤ key.toNat := by
  rcases Nat.lt_or_ge key.toNat 32 with h | h
  · simp [subaOutput_of_lt T key p h, h]
  · simp [subaOutput_of_ge T key p h, h, eq_comm]

/-- Variant 7 fails only where it continues as Substitution Cipher A (R103). -/
theorem variant7Output_eq_error_iff (T : Tables) (key : Byte) (p : Payload) (f : Failure) :
    variant7Output T key p = .error f ↔
      f = .invalidKey ∧ 32 ≤ key.toNat ∧ key.getLsbD 0 = false := by
  cases h : key.getLsbD 0 with
  | false => simp [variant7Output_of_even T p h, subaOutput_eq_error_iff]
  | true => simp [variant7Output_of_odd T p h]

/-- When the operation that a record selects takes a failure (R122, R123, R124). -/
def operationCause (rc : Record) : Failure → Prop
  | .invalidChecksum => False
  | .invalidKey      =>
    32 ≤ rc.key.toNat ∧
      ((¬ overrides rc.key ∧ rc.mode = 0x01#8) ∨
        (¬ overrides rc.key ∧ rc.mode = 0x07#8 ∧ rc.key.getLsbD 0 = false) ∨
        (overrides rc.key ∧ rc.key.getLsbD 0 = false))
  | .invalidMode     => ¬ overrides rc.key ∧ modeUnknown rc.mode
  | .unimplemented   => ¬ overrides rc.key ∧ 2 ≤ rc.mode.toNat ∧ rc.mode.toNat ≤ 6

/-- When the transaction on a record takes a failure: the trailer comes first (R121). -/
def failureCause (rc : Record) : Failure → Prop
  | .invalidChecksum => checksumOf rc ≠ rc.trailer
  | f                => checksumOf rc = rc.trailer ∧ operationCause rc f

section
variable {mode key : Byte} {p : Payload} {ck : Trailer}

/-- Where the key overrides the mode, the one cause is that of Variant 7. -/
theorem operationCause_of_overrides (h : overrides key) (f : Failure) :
    operationCause ⟨mode, key, p, ck⟩ f ↔
      f = .invalidKey ∧ 32 ≤ key.toNat ∧ key.getLsbD 0 = false := by
  cases f <;> simp [operationCause, h]

/-- Where the mode byte selects, it decides which failure there can be. -/
theorem operationCause_of_not_overrides (h : ¬ overrides key) (f : Failure) :
    operationCause ⟨mode, key, p, ck⟩ f ↔
      (f = .invalidKey ∧ 32 ≤ key.toNat ∧
        (mode = 0x01#8 ∨ mode = 0x07#8 ∧ key.getLsbD 0 = false)) ∨
      (f = .invalidMode ∧ modeUnknown mode) ∨
      (f = .unimplemented ∧ 2 ≤ mode.toNat ∧ mode.toNat ≤ 6) := by
  cases f <;> simp [operationCause, h]

end

theorem not_overrides_of_not_keyOverride {key : Byte} (h : (!keyOverride key) = true) :
    ¬ overrides key :=
  not_or.mpr ((not_keyOverride_iff key).mp h)

/-- The causes are exact, row by row. -/
theorem operationResult_eq_error_iff (T : Tables) (i : Instr) (f : Failure)
    (h : i.rowHolds = true) :
    operationResult T i = .error f ↔ operationCause (encode i) f := by
  cases i with
  | var7K0 mode p ck =>
    have hkey : overrides 0x00#8 := .inl rfl
    exact (variant7Output_eq_error_iff T _ p f).trans (operationCause_of_overrides hkey f).symm
  | var7K5 mode key p ck =>
    have hkey : overrides key := .inr h
    exact (variant7Output_eq_error_iff T key p f).trans (operationCause_of_overrides hkey f).symm
  | suba key p ck =>
    have hkey : ¬ overrides key := not_overrides_of_not_keyOverride h
    simp [operationResult, subaOutput_eq_error_iff, encode, operationCause_of_not_overrides hkey,
      modeUnknown]
  | var7M key p ck =>
    have hkey : ¬ overrides key := not_overrides_of_not_keyOverride h
    simp [operationResult, variant7Output_eq_error_iff, encode,
      operationCause_of_not_overrides hkey, modeUnknown]
  | rsv2 key | rsv3 key | rsv4 key | rsv5 key | rsv6 key | fixed key =>
    have hkey : ¬ overrides key := not_overrides_of_not_keyOverride h
    simp [operationResult, encode, operationCause_of_not_overrides hkey, modeUnknown,
      eq_comm (b := f)]
  | invm mode key p ck =>
    obtain ⟨hrow, hmode⟩ := Bool.and_eq_true_iff.mp h
    have hkey : ¬ overrides key := not_overrides_of_not_keyOverride hrow
    obtain ⟨h1, -, -, -, -, -, h7, -⟩ := (not_modeKnown_iff mode).mp hmode
    have hunknown := (not_modeKnown_iff_modeUnknown mode).mp hmode
    have hreserved : ¬ (2 ≤ mode.toNat ∧ mode.toNat ≤ 6) := by
      unfold modeUnknown at hunknown
      omega
    simp only [operationResult, Except.error.injEq, encode, operationCause_of_not_overrides hkey,
      hunknown, h1, h7, hreserved, false_and, or_self, and_false, and_true, false_or, or_false,
      eq_comm (b := f)]

theorem transactionResult_eq_error_iff (T : Tables) (rc : Record) (f : Failure) :
    transactionResult T rc = .error f ↔ failureCause rc f := by
  unfold transactionResult
  split_ifs with hck
  · rw [operationResult_eq_error_iff T _ f (rowHolds_select rc), encode_select]
    cases f <;> simp [failureCause, operationCause, hck]
  · cases f <;> simp [failureCause, hck]

/-- A transaction ends with a failure exactly when its record has that failure's cause. -/
theorem step_status_eq_failureStatus_iff {s t : State} (h : step s = .next t) (f : Failure) :
    t.status = failureStatus f ↔ failureCause s.record f := by
  obtain rfl := eq_deliver_of_step h
  rw [deliver_status_eq_failureStatus_iff, transactionResult_eq_error_iff]

/-! ### A stream of records (R127, R142) -/

/-- The state after the transaction on a record presented to `s`. -/
def transact (rc : Record) (s : State) : State :=
  deliver (transactionResult s.sbox rc) (runChecksum (present rc s))

theorem step_present (rc : Record) (s : State) : step (present rc s) = .next (transact rc s) :=
  step_eq_deliver (present rc s)

@[simp] theorem transact_sbox (rc : Record) (s : State) : (transact rc s).sbox = s.sbox :=
  deliver_sbox _ _

theorem runRecords_cons (rc : Record) (rest : List Record) (s : State) :
    runRecords (rc :: rest) s =
      ((transact rc s).status, (transact rc s).out) :: runRecords rest (transact rc s) := by
  rw [runRecords, step_present]

/-- What the host sees of a delivery is the result's alone. -/
theorem visible_deliver_congr (r : Except Failure Output) (s s' : State) :
    visible (deliver r s) = visible (deliver r s') := by
  cases r with
  | ok o => rfl
  | error f => simp [visible]

/-- What the host sees of a transaction depends on the record and the tables alone (R19). -/
theorem visible_transact_congr (rc : Record) {s s' : State} (h : s.sbox = s'.sbox) :
    visible (transact rc s) = visible (transact rc s') := by
  unfold transact
  rw [h]
  exact visible_deliver_congr _ _ _

/-- The results of a stream are those of its records, each presented to `s0`. -/
theorem map_shown_runRecords (rs : List Record) {s s0 : State} (h : s.sbox = s0.sbox) :
    (runRecords rs s).map shown = rs.map fun rc => visible (transact rc s0) := by
  induction rs generalizing s with
  | nil => rfl
  | cons rc rest ih =>
    have htail := ih ((transact_sbox rc s).trans h)
    rw [runRecords_cons, List.map_cons, List.map_cons, htail, ← visible_transact_congr rc h]
    rfl

end Sys2Proof.Exceptions

namespace Sys2Proof.Proofs

open Sys2Proof.Machine Sys2Proof.Claims Sys2Proof.Exceptions

/-- Settles O33: neither the checksum engine nor the delivery of a failure stores a byte. -/
theorem failureLeavesEveryByteAlone : Obligations.FailureLeavesEveryByteAlone := by
  intro s t hstep hstatus a
  obtain rfl := eq_deliver_of_step hstep
  exact (memRead_deliver_of_status_ne_ok hstatus a).trans (memRead_runChecksum s a)

/-- Settles O37. -/
theorem invalidKeyOnlyWhereCipherAIsReached : Obligations.InvalidKeyOnlyWhereCipherAIsReached :=
  fun _ _ hstep => step_status_eq_failureStatus_iff hstep .invalidKey

/-- Settles O38. -/
theorem otherFailuresHaveTheirCauses : Obligations.OtherFailuresHaveTheirCauses :=
  fun _ _ hstep =>
    ⟨step_status_eq_failureStatus_iff hstep .invalidChecksum,
      step_status_eq_failureStatus_iff hstep .invalidMode,
      step_status_eq_failureStatus_iff hstep .unimplemented⟩

/-- Settles O42: the stream's results are a map over its records. -/
theorem streamResultsAreIndependent : Obligations.StreamResultsAreIndependent := by
  intro rs s s0 hsbox
  have hmap := map_shown_runRecords rs hsbox
  refine ⟨by simpa using congrArg List.length hmap, fun g hg => ⟨_, step_present rs[g] s0, ?_⟩⟩
  rw [← List.getElem?_map, hmap, List.getElem?_map, List.getElem?_eq_getElem hg, Option.map_some]

end Sys2Proof.Proofs
end

section
/-!
PROOFS of the family `70_reset_and_hazards`: the host's cutting of a byte stream into groups.

Both facts follow the recursion of `groups`: a stream of eight bytes or more is a record's bytes and
a shorter stream, and what is left at the end has fewer than eight bytes.
-/

namespace Sys2Proof.Machine

/-- A stream from which no record can be cut has fewer than eight bytes. -/
theorem length_lt_eight_of_ne_bytesOfRecord_append {bytes : List Byte}
    (h : ∀ rc rest, bytes ≠ bytesOfRecord rc ++ rest) : bytes.length < 8 := by
  by_contra hlen
  match bytes, Nat.le_of_not_lt hlen with
  | b0 :: b1 :: b2 :: b3 :: b4 :: b5 :: b6 :: b7 :: rest, _ =>
    exact h ⟨b0, b1, ⟨b2, b3, b4, b5⟩, ⟨b6, b7⟩⟩ rest rfl

/-- R142 a: there are as many groups as whole eights of bytes. -/
theorem length_groups (bytes : List Byte) : (groups bytes).length = bytes.length / 8 := by
  induction bytes using groups.induct with
  | case1 b0 b1 b2 b3 b4 b5 b6 b7 rest ih =>
    rw [groups, List.length_cons, ih]
    simp only [List.length_cons]
    omega
  | case2 bytes hpartial =>
    have hlt : bytes.length < 8 :=
      length_lt_eight_of_ne_bytesOfRecord_append fun _ _ => hpartial _ _ _ _ _ _ _ _ _
    rw [groups, List.length_nil, Nat.div_eq_of_lt hlt]
    exact hpartial

/-- R142 a: group `g` holds the bytes `8 * g` to `8 * g + 7`. -/
theorem bytesOfRecord_getElem_groups (bytes : List Byte) (g : Nat)
    (h : g < (groups bytes).length) :
    bytesOfRecord (groups bytes)[g] = (bytes.drop (8 * g)).take 8 := by
  induction bytes using groups.induct generalizing g with
  | case1 b0 b1 b2 b3 b4 b5 b6 b7 rest ih =>
    cases g with
    | zero => rfl
    | succ g => exact ih g (Nat.lt_of_succ_lt_succ h)
  | case2 bytes hpartial =>
    rw [groups] at h
    · exact absurd h (Nat.not_lt_zero g)
    · exact hpartial

end Sys2Proof.Machine

namespace Sys2Proof.Proofs

open Sys2Proof.Machine

/-- Settles O41: both halves go by induction over the stream, one group at a time. -/
theorem groupsCutTheStream : Obligations.GroupsCutTheStream :=
  fun bytes => ⟨length_groups bytes, bytesOfRecord_getElem_groups bytes⟩

end Sys2Proof.Proofs
end
